-- ==== Sys2Proof/Word.lean ====
section
/-! DEFINITION. The machine's words: the widths the manual names (R6, R76, R78). -/

namespace Sys2Proof

/-- A double word: scalar registers, control registers, addresses while they are computed (R6, R76). -/
abbrev Word := BitVec 64

/-- A vector register or queue-port value (R78, R80). -/
abbrev Vec := BitVec 512

/-- One byte of memory. -/
abbrev Byte := BitVec 8

/-- A scalar or vector register number as a field of a syllable (R101). -/
abbrev Reg := BitVec 5

end Sys2Proof
end

