-- ==== Sys2Proof/Syntax.lean ====
section
/-! DEFINITION. The abstract syntax: one constructor of `Instr` per row of the opcode table. The first 170 are the
syllables of a bundle (R105 to R112), the other 101 the device's own steps and the host's actions. -/

namespace Sys2Proof

/-- A guard: G names a predicate (or a lane mask in VA and VB), N inverts it (R79, R101). -/
structure Guard where
  g : BitVec 3
  n : Bool
  deriving DecidableEq, Repr

/-- The scalar cluster: the X or Y slot of a scalar syllable, or the data register's cluster of an L syllable (R76). -/
inductive Cl | x | y
  deriving DecidableEq, Repr

/-- A bundle position that holds an instruction (R94). -/
inductive Pos | x | y | va | vb | l | c | e
  deriving DecidableEq, Repr

/-- A register, or a queue port, that a syllable reads or that a result lands in (R80, R96, R256). -/
inductive Dest
  | x (n : Reg) | y (n : Reg) | v (n : Reg) | p (n : BitVec 3) | m (n : BitVec 3) | port (n : Reg)
  deriving DecidableEq, Repr

/-- Element types by ET code 0 to 7 (R103). -/
inductive Ety | i8 | i16 | i32 | f32 | bf16 | f16 | e4m3 | e5m2
  deriving DecidableEq, Repr

/-- CMP conditions, F 0x01 to 0x06 (R339). -/
inductive Cmp | eq | ne | lt | ltu | le | leu
  deriving DecidableEq, Repr

/-- FCMP conditions, F 0x01 to 0x04 (R349). -/
inductive FCmp | eq | lt | le | un
  deriving DecidableEq, Repr

/-- VCMP conditions, FN 0x1 to 0x7 (R413). -/
inductive VCmp | eq | ne | lt | le | ltu | leu | un
  deriving DecidableEq, Repr

/-- VRED operations, FN 0x1 to 0x4 (R430). -/
inductive RedOp | sum | min | max | or
  deriving DecidableEq, Repr

/-- PLOG and MLOG operations, F 0x1 to 0x5 (R368). -/
inductive LogOp | and | or | xor | andn | not
  deriving DecidableEq, Repr

/-- Atomic operations, AOP 0 to 9 (R109). -/
inductive Aop | add | and | or | xor | min | max | minu | maxu | xchg | cas
  deriving DecidableEq, Repr

/-- Access widths of LDG and STG, OFF7[6:5] (R364). -/
inductive Width | b | h | w | d
  deriving DecidableEq, Repr

/-- The token fields of an E syllable (R82, R112). -/
structure Toks where
  kp : BitVec 3
  kc0 : BitVec 3
  kc1 : BitVec 3
  kc2 : BitVec 3
  deriving DecidableEq, Repr

/-- A PCIe function: the physical function or virtual function n (R310). -/
inductive Fn | pf | vf (n : BitVec 4)
  deriving DecidableEq, Repr

/-- What names a Cellar: core number n, or the die's unit (R268). -/
inductive Place | core (n : Nat) | die (d : BitVec 2)
  deriving DecidableEq, Repr

/-- What an ATS completion says of a page (R187, R188): its virtual base, log2 size, physical base, whether the
translated address is host memory, and the permissions. -/
structure Xlate where
  pasid : BitVec 20
  va : Nat
  lg : Nat
  pa : Nat
  host : Bool
  r : Bool
  w : Bool
  x : Bool
  deriving DecidableEq, Repr

/-- The outcome of a link's training (R317). -/
structure Training where
  lanes : BitVec 2
  rate : BitVec 2
  sched : Bool
  lat : BitVec 20
  partner : BitVec 14
  plink : BitVec 4
  deriving DecidableEq, Repr

/-- What failed behind an engine report (R229, R266). -/
inductive EngFail | page | tile | classG | absentDest | ecc
  deriving DecidableEq, Repr

/-- The instructions and device steps of the opcode table. Scalar syllables carry their cluster; every guarded
syllable carries its guard last; E syllables carry their tokens last. -/
inductive Instr
  | nop (pos : Pos)
  -- X and Y slots (R105)
  | add (cl : Cl) (d a b : Reg) (g : Guard)
  | addi (cl : Cl) (d a : Reg) (imm : BitVec 12) (g : Guard)
  | sub (cl : Cl) (d a b : Reg) (g : Guard)
  | and (cl : Cl) (d a b : Reg) (g : Guard)
  | andn (cl : Cl) (d a b : Reg) (g : Guard)
  | andi (cl : Cl) (d a : Reg) (imm : BitVec 12) (g : Guard)
  | or (cl : Cl) (d a b : Reg) (g : Guard)
  | ori (cl : Cl) (d a : Reg) (imm : BitVec 12) (g : Guard)
  | xor (cl : Cl) (d a b : Reg) (g : Guard)
  | xori (cl : Cl) (d a : Reg) (imm : BitVec 12) (g : Guard)
  | sll (cl : Cl) (d a b : Reg) (g : Guard)
  | srl (cl : Cl) (d a b : Reg) (g : Guard)
  | sra (cl : Cl) (d a b : Reg) (g : Guard)
  | slli (cl : Cl) (d a : Reg) (imm : BitVec 12) (g : Guard)
  | srli (cl : Cl) (d a : Reg) (imm : BitVec 12) (g : Guard)
  | srai (cl : Cl) (d a : Reg) (imm : BitVec 12) (g : Guard)
  | mul (cl : Cl) (d a b : Reg) (g : Guard)
  | mulh (cl : Cl) (d a b : Reg) (g : Guard)
  | mulhu (cl : Cl) (d a b : Reg) (g : Guard)
  | muli (cl : Cl) (d a : Reg) (imm : BitVec 12) (g : Guard)
  | min (cl : Cl) (d a b : Reg) (g : Guard)
  | max (cl : Cl) (d a b : Reg) (g : Guard)
  | minu (cl : Cl) (d a b : Reg) (g : Guard)
  | maxu (cl : Cl) (d a b : Reg) (g : Guard)
  | popc (cl : Cl) (d a : Reg) (g : Guard)
  | clz (cl : Cl) (d a : Reg) (g : Guard)
  | ctz (cl : Cl) (d a : Reg) (g : Guard)
  | brev (cl : Cl) (d a : Reg) (g : Guard)
  | sextb (cl : Cl) (d a : Reg) (g : Guard)
  | sexth (cl : Cl) (d a : Reg) (g : Guard)
  | sextw (cl : Cl) (d a : Reg) (g : Guard)
  | zextw (cl : Cl) (d a : Reg) (g : Guard)
  | div (cl : Cl) (d a b : Reg) (g : Guard)
  | divu (cl : Cl) (d a b : Reg) (g : Guard)
  | rem (cl : Cl) (d a b : Reg) (g : Guard)
  | remu (cl : Cl) (d a b : Reg) (g : Guard)
  | cmp (cc : Cmp) (cl : Cl) (pd : BitVec 3) (a b : Reg) (g : Guard)
  | cmpiEq (cl : Cl) (pd : BitVec 3) (a : Reg) (imm : BitVec 12) (g : Guard)
  | cmpiLt (cl : Cl) (pd : BitVec 3) (a : Reg) (imm : BitVec 12) (g : Guard)
  | cmpiLtu (cl : Cl) (pd : BitVec 3) (a : Reg) (imm : BitVec 12) (g : Guard)
  | fadd (cl : Cl) (d a b : Reg) (g : Guard)
  | fsub (cl : Cl) (d a b : Reg) (g : Guard)
  | fmul (cl : Cl) (d a b : Reg) (g : Guard)
  | ffma (cl : Cl) (d a b : Reg) (g : Guard)
  | ffms (cl : Cl) (d a b : Reg) (g : Guard)
  | fmin (cl : Cl) (d a b : Reg) (g : Guard)
  | fmax (cl : Cl) (d a b : Reg) (g : Guard)
  | fabs (cl : Cl) (d a : Reg) (g : Guard)
  | fneg (cl : Cl) (d a : Reg) (g : Guard)
  | fdiv (cl : Cl) (d a b : Reg) (g : Guard)
  | fsqrt (cl : Cl) (d a : Reg) (g : Guard)
  | frsq (cl : Cl) (d a : Reg) (g : Guard)
  | fclass (cl : Cl) (d a : Reg) (g : Guard)
  | fcvtFi (cl : Cl) (d a : Reg) (g : Guard)
  | fcvtFu (cl : Cl) (d a : Reg) (g : Guard)
  | fcvtIf (cl : Cl) (d a : Reg) (g : Guard)
  | fcvtIfz (cl : Cl) (d a : Reg) (g : Guard)
  | fcmp (cc : FCmp) (cl : Cl) (pd : BitVec 3) (a b : Reg) (g : Guard)
  | xmov (cl : Cl) (d a : Reg) (g : Guard)
  | sel (cl : Cl) (d : Reg) (pf : BitVec 3) (a b : Reg) (g : Guard)
  | movi (cl : Cl) (d : Reg) (imm : BitVec 17) (g : Guard)
  | shori (cl : Cl) (d : Reg) (imm : BitVec 16) (g : Guard)
  -- VA slot (R106)
  | vadd (et : Ety) (d a b : Reg) (g : Guard)
  | vsub (et : Ety) (d a b : Reg) (g : Guard)
  | vmul (et : Ety) (d a b : Reg) (g : Guard)
  | vmulh (et : Ety) (d a b : Reg) (g : Guard)
  | vmac (et : Ety) (d a b : Reg) (g : Guard)
  | vmin (et : Ety) (d a b : Reg) (g : Guard)
  | vmax (et : Ety) (d a b : Reg) (g : Guard)
  | vabs (et : Ety) (d a : Reg) (g : Guard)
  | vshl (et : Ety) (d a b : Reg) (g : Guard)
  | vshr (et : Ety) (d a b : Reg) (g : Guard)
  | vrshr (et : Ety) (d a b : Reg) (g : Guard)
  | vand (et : Ety) (d a b : Reg) (g : Guard)
  | vor (et : Ety) (d a b : Reg) (g : Guard)
  | vxor (et : Ety) (d a b : Reg) (g : Guard)
  | vdot4 (d a b : Reg) (g : Guard)
  | vfadd (et : Ety) (d a b : Reg) (g : Guard)
  | vfsub (et : Ety) (d a b : Reg) (g : Guard)
  | vfmul (et : Ety) (d a b : Reg) (g : Guard)
  | vffma (et : Ety) (d a b : Reg) (g : Guard)
  | vfmin (et : Ety) (d a b : Reg) (g : Guard)
  | vfmax (et : Ety) (d a b : Reg) (g : Guard)
  | vfabs (et : Ety) (d a : Reg) (g : Guard)
  | vfneg (et : Ety) (d a : Reg) (g : Guard)
  | vfrcp (et : Ety) (d a : Reg) (g : Guard)
  | vfrsq (et : Ety) (d a : Reg) (g : Guard)
  | vadds (et : Ety) (d a b : Reg) (g : Guard)
  | vmuls (et : Ety) (d a b : Reg) (g : Guard)
  | vfmuls (et : Ety) (d a b : Reg) (g : Guard)
  | vffmas (et : Ety) (d a b : Reg) (g : Guard)
  -- VB slot (R107)
  | vcmp (cc : VCmp) (et : Ety) (md : BitVec 3) (a b : Reg) (g : Guard)
  | vsel (et : Ety) (d : Reg) (mf : BitVec 3) (a b : Reg) (g : Guard)
  | vperm (et : Ety) (d a b : Reg) (g : Guard)
  | vslide (et : Ety) (d a b : Reg) (g : Guard)
  | vbcast (et : Ety) (d a : Reg) (g : Guard)
  | vext (et : Ety) (d a b : Reg)
  | vcvt (st dt : Ety) (sat : Bool) (d a : Reg) (g : Guard)
  | vquant (et : Ety) (kt : BitVec 2) (d a b : Reg) (g : Guard)
  | vquantAuto (et : Ety) (d a b : Reg) (g : Guard)
  | vdeq (et : Ety) (hi : Bool) (d a : Reg) (g : Guard)
  | vred (op : RedOp) (et : Ety) (d a : Reg) (g : Guard)
  | vrng (d a b : Reg) (g : Guard)
  | vmovi (d : Reg) (imm : BitVec 17) (g : Guard)
  | vpopc (et : Ety) (d a : Reg) (g : Guard)
  | mcnt (d : Reg) (a : BitVec 3)
  -- L slot (R108 to R110)
  | ldb (cl : Cl) (d a : Reg) (sid : BitVec 4) (off : BitVec 7) (g : Guard)
  | ldbu (cl : Cl) (d a : Reg) (sid : BitVec 4) (off : BitVec 7) (g : Guard)
  | ldh (cl : Cl) (d a : Reg) (sid : BitVec 4) (off : BitVec 7) (g : Guard)
  | ldhu (cl : Cl) (d a : Reg) (sid : BitVec 4) (off : BitVec 7) (g : Guard)
  | ldw (cl : Cl) (d a : Reg) (sid : BitVec 4) (off : BitVec 7) (g : Guard)
  | ldwu (cl : Cl) (d a : Reg) (sid : BitVec 4) (off : BitVec 7) (g : Guard)
  | ldd (cl : Cl) (d a : Reg) (sid : BitVec 4) (off : BitVec 7) (g : Guard)
  | stb (cl : Cl) (d a : Reg) (sid : BitVec 4) (off : BitVec 7) (g : Guard)
  | sth (cl : Cl) (d a : Reg) (sid : BitVec 4) (off : BitVec 7) (g : Guard)
  | stw (cl : Cl) (d a : Reg) (sid : BitVec 4) (off : BitVec 7) (g : Guard)
  | std (cl : Cl) (d a : Reg) (sid : BitVec 4) (off : BitVec 7) (g : Guard)
  | vld (d a : Reg) (sid : BitVec 4) (off : BitVec 7) (g : Guard)
  | vst (d a : Reg) (sid : BitVec 4) (off : BitVec 7) (g : Guard)
  | vlds (d a : Reg) (sid : BitVec 4) (s : Reg) (g : Guard)
  | vsts (d a : Reg) (sid : BitVec 4) (s : Reg) (g : Guard)
  | vgath (d a : Reg) (sid : BitVec 4) (i : Reg) (g : Guard)
  | vscat (d a : Reg) (sid : BitVec 4) (i : Reg) (g : Guard)
  | ldg (wd : Width) (cl : Cl) (d a : Reg) (sid : BitVec 4) (off : BitVec 5) (g : Guard)
  | stg (wd : Width) (cl : Cl) (d a : Reg) (sid : BitVec 4) (off : BitVec 5) (g : Guard)
  | vldg (d a : Reg) (sid : BitVec 4) (off : BitVec 7) (g : Guard)
  | vstg (d a : Reg) (sid : BitVec 4) (off : BitVec 7) (g : Guard)
  | ldacq (cl : Cl) (d a : Reg) (sid : BitVec 4) (off : BitVec 7) (g : Guard)
  | strel (cl : Cl) (d a : Reg) (sid : BitVec 4) (off : BitVec 7) (g : Guard)
  | atom (op : Aop) (acq rel wide : Bool) (cl : Cl) (d a : Reg) (sid : BitVec 4) (g : Guard)
  | vatom (op : Aop) (d a : Reg) (sid : BitVec 4) (g : Guard)
  | fenceJoin (mask : BitVec 16) (g : Guard)
  | fenceLoop (mask : BitVec 16) (g : Guard)
  | fenceFull (g : Guard)
  | tld (d a : Reg) (sid : BitVec 4) (g : Guard)
  | tst (d a : Reg) (sid : BitVec 4) (g : Guard)
  -- C slot (R111)
  | br (off : BitVec 22) (g : Guard)
  | call (off : BitVec 22) (g : Guard)
  | ret (a : Reg) (g : Guard)
  | brx (a : Reg) (g : Guard)
  | wait (imm : BitVec 17) (g : Guard)
  | waitt (pd : BitVec 3) (a : Reg) (g : Guard)
  | waita (a b : Reg) (g : Guard)
  | waitb (a b : Reg) (g : Guard)
  | waitmb (mb : BitVec 6) (a : Reg) (g : Guard)
  | waitk (mask : BitVec 7) (g : Guard)
  | arrive (a : Reg) (g : Guard)
  | plog (op : LogOp) (d a b : BitVec 3) (g : Guard)
  | mlog (op : LogOp) (d a b : BitVec 3) (g : Guard)
  | rdc (d : Reg) (creg : BitVec 12) (g : Guard)
  | wrc (creg : BitVec 12) (a : Reg) (g : Guard)
  | trap (code : BitVec 17) (g : Guard)
  | eret (g : Guard)
  | exit (g : Guard)
  | mark (a : Reg) (tag : BitVec 7) (g : Guard)
  | time (d : Reg) (g : Guard)
  | seqadd (a b : Reg) (g : Guard)
  | seqwait (pd : BitVec 3) (a b : Reg) (g : Guard)
  | gbar (g : Guard)
  -- E slot (R112)
  | mxldb (mask : BitVec 4) (a : Reg) (k : Toks)
  | mxrun (set : Bool) (a : Reg) (b : BitVec 4) (k : Toks)
  | mxrd (d a : Reg) (b : BitVec 4) (k : Toks)
  | mxflg (d a : Reg) (k : Toks)
  | mxclr (set : Bool) (k : Toks)
  | cpy (a : Reg) (k : Toks)
  | send (a : Reg) (b : BitVec 4) (k : Toks)
  | snld (a : Reg) (k : Toks)
  | spawn (a : Reg) (k : Toks)
  | wmset (ch : BitVec 3) (a : Reg) (b : BitVec 4) (k : Toks)
  -- the host's actions and the device's own steps
  | regstart (fn : Fn) (val : Word)
  | park (fn : Fn) (val : Word)
  | parkDone (rid : BitVec 16)
  | resume (fn : Fn) (val : Word)
  | evict (fn : Fn) (val : Word)
  | evictDone (rid : BitVec 16)
  | restore (fn : Fn) (val : Word)
  | teardown (fn : Fn) (val : Word)
  | thrint (fn : Fn) (val : Word)
  | manreq (fn : Fn) (val : Word)
  | manifestRangeHash (rid : BitVec 16)
  | ttbaseWrite (d : BitVec 2) (val : Word)
  | tenbindWrite (i : BitVec 6) (val : Word)
  | peerTableWrite (i : BitVec 12) (val : Word)
  | ringmasterArm (d : BitVec 2) (e : BitVec 8) (ctl : Byte)
  | ringmasterDisarm (d : BitVec 2) (e : BitVec 8) (ctl : Byte)
  | ringmasterLaunch (d : BitVec 2) (e : BitVec 8)
  | retrain (k : BitVec 4) (val : Word)
  | linkEnable (k : BitVec 4) (val : Word)
  | linkDisable (k : BitVec 4) (val : Word)
  | linkErrorRetrain (k : BitVec 4)
  | linkTrainingDone (k : BitVec 4) (t : Training)
  | linkTrainTimeout (k : BitVec 4)
  | debugStop (val : Word)
  | debugStopDone (core slot : Nat)
  | debugRelease (val : Word)
  | errinj (val : Word)
  | registerWrite (fn : Fn) (off size : Nat) (val : Word)
  | list (fn : Fn) (voff : BitVec 32)
  | fetch (fn : Fn) (form view : Byte) (vid : Word) (voff : BitVec 32)
  | erase (fn : Fn)
  | manifestFetch (fn : Fn) (manid : Word) (off : BitVec 32)
  | atsInvalidate (pasid : BitVec 20) (va lg : Nat)
  | translationCompletion (d : BitVec 2) (core : Nat) (x : Xlate)
  | pageResponse (d : BitVec 2) (req : Nat) (ok : Bool)
  | hostAtomicop (off : Nat) (op : Aop) (wide : Bool) (opnd swap : Word)
  | hostBar2Access (write : Bool) (off size : Nat) (val : Word)
  | atomicopFailed (core slot : Nat) (id : Nat)
  | powerOn
  | warmReset
  | coldReset
  | bringupStageEnd (ok : Bool)
  | ptpLockTimeout
  | ptpLockChange (locked : Bool)
  | powerControl (watts : BitVec 16) (temp thr : Byte) (island : BitVec 6) (mhz : BitVec 12) (swallow : Bool)
  | thermalThrottle (temp : Byte)
  | ageingUpdate (d : BitVec 2) (eol : BitVec 16) (conf : Byte) (worst : BitVec 6)
  | cimScrub (core : Nat) (q : BitVec 2) (row : BitVec 9)
  | taskReady (d : BitVec 2) (id : Nat)
  | taskPlace (d : BitVec 2)
  | gangPlace (d : BitVec 2)
  | gangPressing (d : BitVec 2)
  | taskStart (core slot : Nat)
  | recordEnqueue (d : BitVec 2) (id : Nat)
  | detAtomicBatch (key : Nat)
  | kernelBoundary (rid : BitVec 16)
  | pageDigestDone (rid : BitVec 16)
  | resultLands (core slot : Nat)
  | loadLanding (core id : Nat)
  | holdRelease (core slot : Nat)
  | bundleLineFill (core line : Nat)
  | waitComplete (core slot : Nat)
  | gbarRelease (core slot : Nat)
  | domainFreeze (rid : BitVec 16)
  | domainResume (rid : BitVec 16)
  | trapTaken (core slot : Nat)
  | contextSave (core slot : Nat)
  | orderQueuePerform (core slot id : Nat)
  | seqaddPerform (core slot id : Nat)
  | atomicExecute (core slot id : Nat)
  | remoteLoadServe (id : Nat)
  | remoteStoreLanding (id : Nat)
  | barrierArrival (id : Nat)
  | ackReturn (id : Nat)
  | destAbsentTimeout (id : Nat)
  | copyLanding (core tag : Nat)
  | copyComplete (core tag : Nat)
  | engineFailure (core tag : Nat) (f : EngFail)
  | wmsetApply (core tag : Nat)
  | qnoDeparture (core slot : Nat)
  | messageArrival (id : Nat)
  | putLanding (id : Nat)
  | atticSpill (core : Nat)
  | atticReplay (core : Nat)
  | snetHop (rid : BitVec 16)
  | snldTableEffect (core : Nat)
  | mxrunStart (core : Nat)
  | qmaChunkArrival (core : Nat)
  | mxrunStepComplete (core : Nat)
  | mxrunEmission (core : Nat)
  | mxldbLoad (core : Nat)
  | mxclrDone (core : Nat)
  | mxrdDone (core id : Nat)
  | cellarRecordWrite (p : Place)
  | fatalDetect (core slot : Nat) (cause : BitVec 16) (value : Word)
  | freezeWaveArrival (p : Place) (origin : BitVec 12)
  | faultDomainEnd (rid : BitVec 16)
  | vaultCopyDone (p : Place)
  | deviceFatal (cause : BitVec 16)
  | powerLoss
  | getMeasurements (fn : Fn) (block : BitVec 8)
  deriving DecidableEq, Repr

end Sys2Proof
end

