-- ==== Sys2Proof/Machine/Forms.lean ====
section
/-! DEFINITION. What the fields of an instruction name: its bundle position, the registers it reads and writes
(R95, R96, R83), and the operand rules of the opcode maps that its types leave open (R102 to R112). -/

namespace Sys2Proof.Machine

/-- The scalar register of a cluster. -/
def Cl.reg (cl : Cl) (r : Reg) : Dest := match cl with | .x => .x r | .y => .y r

/-- The position of a scalar syllable's cluster. -/
def Cl.pos (cl : Cl) : Pos := match cl with | .x => .x | .y => .y

/-- The other cluster (R445). -/
def Cl.other (cl : Cl) : Cl := match cl with | .x => .y | .y => .x

/-- A vector field as a source or destination: v24 to v31 are ports (R80). -/
def vreg (r : Reg) : Dest := if r.toNat < 24 then .v r else .port r

/-- A four-bit x field (R112). -/
def b4reg (b : BitVec 4) : Dest := .x (b.setWidth 5)

/-- The bundle position of a syllable; the device steps have none (R94). -/
def posOf (i : Instr) : Option Pos :=
  match i with
  | .nop p => some p
  | .add cl .. | .addi cl .. | .sub cl .. | .and cl .. | .andn cl .. | .andi cl .. | .or cl .. | .ori cl ..
  | .xor cl .. | .xori cl .. | .sll cl .. | .srl cl .. | .sra cl .. | .slli cl .. | .srli cl .. | .srai cl ..
  | .mul cl .. | .mulh cl .. | .mulhu cl .. | .muli cl .. | .min cl .. | .max cl .. | .minu cl .. | .maxu cl ..
  | .popc cl .. | .clz cl .. | .ctz cl .. | .brev cl .. | .sextb cl .. | .sexth cl .. | .sextw cl .. | .zextw cl ..
  | .div cl .. | .divu cl .. | .rem cl .. | .remu cl .. | .cmp _ cl .. | .cmpiEq cl .. | .cmpiLt cl .. | .cmpiLtu cl ..
  | .fadd cl .. | .fsub cl .. | .fmul cl .. | .ffma cl .. | .ffms cl .. | .fmin cl .. | .fmax cl .. | .fabs cl ..
  | .fneg cl .. | .fdiv cl .. | .fsqrt cl .. | .frsq cl .. | .fclass cl .. | .fcvtFi cl .. | .fcvtFu cl ..
  | .fcvtIf cl .. | .fcvtIfz cl .. | .fcmp _ cl .. | .xmov cl .. | .sel cl .. | .movi cl .. | .shori cl .. => some (Cl.pos cl)
  | .vadd .. | .vsub .. | .vmul .. | .vmulh .. | .vmac .. | .vmin .. | .vmax .. | .vabs .. | .vshl .. | .vshr ..
  | .vrshr .. | .vand .. | .vor .. | .vxor .. | .vdot4 .. | .vfadd .. | .vfsub .. | .vfmul .. | .vffma .. | .vfmin ..
  | .vfmax .. | .vfabs .. | .vfneg .. | .vfrcp .. | .vfrsq .. | .vadds .. | .vmuls .. | .vfmuls .. | .vffmas .. => some .va
  | .vcmp .. | .vsel .. | .vperm .. | .vslide .. | .vbcast .. | .vext .. | .vcvt .. | .vquant .. | .vquantAuto ..
  | .vdeq .. | .vred .. | .vrng .. | .vmovi .. | .vpopc .. | .mcnt .. => some .vb
  | .ldb .. | .ldbu .. | .ldh .. | .ldhu .. | .ldw .. | .ldwu .. | .ldd .. | .stb .. | .sth .. | .stw .. | .std ..
  | .vld .. | .vst .. | .vlds .. | .vsts .. | .vgath .. | .vscat .. | .ldg .. | .stg .. | .vldg .. | .vstg ..
  | .ldacq .. | .strel .. | .atom .. | .vatom .. | .fenceJoin .. | .fenceLoop .. | .fenceFull .. | .tld .. | .tst .. => some .l
  | .br .. | .call .. | .ret .. | .brx .. | .wait .. | .waitt .. | .waita .. | .waitb .. | .waitmb .. | .waitk ..
  | .arrive .. | .plog .. | .mlog .. | .rdc .. | .wrc .. | .trap .. | .eret .. | .exit .. | .mark .. | .time ..
  | .seqadd .. | .seqwait .. | .gbar .. => some .c
  | .mxldb .. | .mxrun .. | .mxrd .. | .mxflg .. | .mxclr .. | .cpy .. | .send .. | .snld .. | .spawn .. | .wmset .. => some .e
  | _ => none

/-- The guard of a syllable; E syllables, VEXT, MCNT and NOP have none (R101, R107). -/
def guardOf (i : Instr) : Option Guard :=
  match i with
  | .add _ _ _ _ g | .addi _ _ _ _ g | .sub _ _ _ _ g | .and _ _ _ _ g | .andn _ _ _ _ g | .andi _ _ _ _ g
  | .or _ _ _ _ g | .ori _ _ _ _ g | .xor _ _ _ _ g | .xori _ _ _ _ g | .sll _ _ _ _ g | .srl _ _ _ _ g
  | .sra _ _ _ _ g | .slli _ _ _ _ g | .srli _ _ _ _ g | .srai _ _ _ _ g | .mul _ _ _ _ g | .mulh _ _ _ _ g
  | .mulhu _ _ _ _ g | .muli _ _ _ _ g | .min _ _ _ _ g | .max _ _ _ _ g | .minu _ _ _ _ g | .maxu _ _ _ _ g
  | .div _ _ _ _ g | .divu _ _ _ _ g | .rem _ _ _ _ g | .remu _ _ _ _ g | .fadd _ _ _ _ g | .fsub _ _ _ _ g
  | .fmul _ _ _ _ g | .ffma _ _ _ _ g | .ffms _ _ _ _ g | .fmin _ _ _ _ g | .fmax _ _ _ _ g | .fdiv _ _ _ _ g
  | .cmpiEq _ _ _ _ g | .cmpiLt _ _ _ _ g | .cmpiLtu _ _ _ _ g => some g
  | .popc _ _ _ g | .clz _ _ _ g | .ctz _ _ _ g | .brev _ _ _ g | .sextb _ _ _ g | .sexth _ _ _ g | .sextw _ _ _ g
  | .zextw _ _ _ g | .fabs _ _ _ g | .fneg _ _ _ g | .fsqrt _ _ _ g | .frsq _ _ _ g | .fclass _ _ _ g
  | .fcvtFi _ _ _ g | .fcvtFu _ _ _ g | .fcvtIf _ _ _ g | .fcvtIfz _ _ _ g | .xmov _ _ _ g | .movi _ _ _ g
  | .shori _ _ _ g => some g
  | .cmp _ _ _ _ _ g | .fcmp _ _ _ _ _ g | .sel _ _ _ _ _ g => some g
  | .vadd _ _ _ _ g | .vsub _ _ _ _ g | .vmul _ _ _ _ g | .vmulh _ _ _ _ g | .vmac _ _ _ _ g | .vmin _ _ _ _ g
  | .vmax _ _ _ _ g | .vshl _ _ _ _ g | .vshr _ _ _ _ g | .vrshr _ _ _ _ g | .vand _ _ _ _ g | .vor _ _ _ _ g
  | .vxor _ _ _ _ g | .vfadd _ _ _ _ g | .vfsub _ _ _ _ g | .vfmul _ _ _ _ g | .vffma _ _ _ _ g | .vfmin _ _ _ _ g
  | .vfmax _ _ _ _ g | .vadds _ _ _ _ g | .vmuls _ _ _ _ g | .vfmuls _ _ _ _ g | .vffmas _ _ _ _ g
  | .vperm _ _ _ _ g | .vslide _ _ _ _ g | .vquantAuto _ _ _ _ g => some g
  | .vabs _ _ _ g | .vdot4 _ _ _ g | .vfabs _ _ _ g | .vfneg _ _ _ g | .vfrcp _ _ _ g | .vfrsq _ _ _ g
  | .vbcast _ _ _ g | .vrng _ _ _ g | .vpopc _ _ _ g => some g
  | .vcmp _ _ _ _ _ g | .vsel _ _ _ _ _ g | .vcvt _ _ _ _ _ g | .vquant _ _ _ _ _ g => some g
  | .vdeq _ _ _ _ g | .vred _ _ _ _ g => some g
  | .vmovi _ _ g => some g
  | .ldb _ _ _ _ _ g | .ldbu _ _ _ _ _ g | .ldh _ _ _ _ _ g | .ldhu _ _ _ _ _ g | .ldw _ _ _ _ _ g
  | .ldwu _ _ _ _ _ g | .ldd _ _ _ _ _ g | .stb _ _ _ _ _ g | .sth _ _ _ _ _ g | .stw _ _ _ _ _ g
  | .std _ _ _ _ _ g | .ldacq _ _ _ _ _ g | .strel _ _ _ _ _ g => some g
  | .vld _ _ _ _ g | .vst _ _ _ _ g | .vlds _ _ _ _ g | .vsts _ _ _ _ g | .vgath _ _ _ _ g | .vscat _ _ _ _ g
  | .vldg _ _ _ _ g | .vstg _ _ _ _ g | .vatom _ _ _ _ g => some g
  | .ldg _ _ _ _ _ _ g | .stg _ _ _ _ _ _ g => some g
  | .atom _ _ _ _ _ _ _ _ g => some g
  | .fenceJoin _ g | .fenceLoop _ g => some g
  | .fenceFull g => some g
  | .tld _ _ _ g | .tst _ _ _ g => some g
  | .br _ g | .call _ g | .ret _ g | .brx _ g | .wait _ g | .waitk _ g | .arrive _ g | .trap _ g | .time _ g => some g
  | .waitt _ _ g | .waita _ _ g | .waitb _ _ g | .waitmb _ _ g | .rdc _ _ g | .wrc _ _ g | .mark _ _ g
  | .seqadd _ _ g => some g
  | .plog _ _ _ _ g | .mlog _ _ _ _ g => some g
  | .seqwait _ _ _ g => some g
  | .eret g | .exit g | .gbar g => some g
  | _ => none

/-- The registers and ports a syllable reads beside its guard (R95); a B4 field of 0 reads none (R112). -/
def readsOf (i : Instr) : List Dest :=
  match i with
  | .add cl _ a b _ | .sub cl _ a b _ | .and cl _ a b _ | .andn cl _ a b _ | .or cl _ a b _ | .xor cl _ a b _
  | .sll cl _ a b _ | .srl cl _ a b _ | .sra cl _ a b _ | .mul cl _ a b _ | .mulh cl _ a b _ | .mulhu cl _ a b _
  | .min cl _ a b _ | .max cl _ a b _ | .minu cl _ a b _ | .maxu cl _ a b _ | .div cl _ a b _ | .divu cl _ a b _
  | .rem cl _ a b _ | .remu cl _ a b _ | .fadd cl _ a b _ | .fsub cl _ a b _ | .fmul cl _ a b _ | .fmin cl _ a b _
  | .fmax cl _ a b _ | .fdiv cl _ a b _ => [Cl.reg cl a, Cl.reg cl b]
  | .cmp _ cl _ a b _ | .fcmp _ cl _ a b _ => [Cl.reg cl a, Cl.reg cl b]
  | .ffma cl d a b _ | .ffms cl d a b _ => [Cl.reg cl d, Cl.reg cl a, Cl.reg cl b]
  | .addi cl _ a _ _ | .andi cl _ a _ _ | .ori cl _ a _ _ | .xori cl _ a _ _ | .slli cl _ a _ _ | .srli cl _ a _ _
  | .srai cl _ a _ _ | .muli cl _ a _ _ => [Cl.reg cl a]
  | .cmpiEq cl _ a _ _ | .cmpiLt cl _ a _ _ | .cmpiLtu cl _ a _ _ => [Cl.reg cl a]
  | .popc cl _ a _ | .clz cl _ a _ | .ctz cl _ a _ | .brev cl _ a _ | .sextb cl _ a _ | .sexth cl _ a _
  | .sextw cl _ a _ | .zextw cl _ a _ | .fabs cl _ a _ | .fneg cl _ a _ | .fsqrt cl _ a _ | .frsq cl _ a _
  | .fclass cl _ a _ | .fcvtFi cl _ a _ | .fcvtFu cl _ a _ | .fcvtIf cl _ a _ | .fcvtIfz cl _ a _
  | .xmov cl _ a _ => [Cl.reg cl a]
  | .sel cl _ pf a b _ => [.p pf, Cl.reg cl a, Cl.reg cl b]
  | .shori cl d _ _ => [Cl.reg cl d]
  | .vadd _ _ a b _ | .vsub _ _ a b _ | .vmul _ _ a b _ | .vmulh _ _ a b _ | .vmin _ _ a b _ | .vmax _ _ a b _
  | .vshl _ _ a b _ | .vshr _ _ a b _ | .vrshr _ _ a b _ | .vand _ _ a b _ | .vor _ _ a b _ | .vxor _ _ a b _
  | .vfadd _ _ a b _ | .vfsub _ _ a b _ | .vfmul _ _ a b _ | .vfmin _ _ a b _ | .vfmax _ _ a b _
  | .vperm _ _ a b _ => [vreg a, vreg b]
  | .vmac _ d a b _ | .vffma _ d a b _ => [vreg d, vreg a, vreg b]
  | .vdot4 d a b _ => [vreg d, vreg a, vreg b]
  | .vabs _ _ a _ | .vfabs _ _ a _ | .vfneg _ _ a _ | .vfrcp _ _ a _ | .vfrsq _ _ a _ | .vpopc _ _ a _ => [vreg a]
  | .vadds _ _ a b _ | .vmuls _ _ a b _ | .vfmuls _ _ a b _ | .vslide _ _ a b _ => [vreg a, .x b]
  | .vffmas _ d a b _ => [vreg d, vreg a, .x b]
  | .vcmp _ _ _ a b _ => [vreg a, vreg b]
  | .vsel _ _ mf a b _ => [.m mf, vreg a, vreg b]
  | .vbcast _ _ a _ => [.x a]
  | .vext _ _ a b => [vreg a, .x b]
  | .vcvt _ _ _ _ a _ => [vreg a]
  | .vquant et _ _ a b _ | .vquantAuto et _ a b _ => if et = .f32 then [vreg a, vreg b] else [vreg a]
  | .vdeq _ _ _ a _ | .vred _ _ _ a _ => [vreg a]
  | .vrng _ a b _ => [vreg a, .x b]
  | .mcnt _ a => [.m a]
  | .ldb _ _ a _ _ _ | .ldbu _ _ a _ _ _ | .ldh _ _ a _ _ _ | .ldhu _ _ a _ _ _ | .ldw _ _ a _ _ _
  | .ldwu _ _ a _ _ _ | .ldd _ _ a _ _ _ | .ldacq _ _ a _ _ _ => [.x a]
  | .stb cl d a _ _ _ | .sth cl d a _ _ _ | .stw cl d a _ _ _ | .std cl d a _ _ _ | .strel cl d a _ _ _ =>
    [Cl.reg cl d, .x a]
  | .vld _ a _ _ _ | .vldg _ a _ _ _ => [.x a]
  | .vst d a _ _ _ | .vstg d a _ _ _ => [vreg d, .x a]
  | .vlds _ a _ s _ => [.x a, .x s]
  | .vsts d a _ s _ => [vreg d, .x a, .x s]
  | .vgath _ a _ i _ => [.x a, vreg i]
  | .vscat d a _ i _ => [vreg d, .x a, vreg i]
  | .ldg _ _ _ a _ _ _ => [.x a]
  | .stg _ cl d a _ _ _ => [Cl.reg cl d, .x a]
  | .atom op _ _ _ cl d a _ _ =>
    (if op = .cas then [Cl.reg cl d, Cl.reg cl (d + 1)] else if d = 0 then [] else [Cl.reg cl d]) ++ [.x a]
  | .vatom _ d a _ _ => [vreg d, vreg (d + 1), .x a]
  | .tld _ a _ _ => [.x a, .x (a + 1)]
  | .tst d a _ _ => [vreg d, .x a, .x (a + 1)]
  | .ret a _ | .brx a _ | .arrive a _ => [.x a]
  | .waitt _ a _ | .mark a _ _ => [.x a]
  | .wrc _ a _ | .waitmb _ a _ => [.x a]
  | .waita a b _ | .waitb a b _ | .seqadd a b _ => [.x a, .x b]
  | .seqwait _ a b _ => [.x a, .x b]
  | .plog op _ a b _ => if op = .not then [.p a] else [.p a, .p b]
  | .mlog op _ a b _ => if op = .not then [.m a] else [.m a, .m b]
  | .mxldb _ a _ | .snld a _ => [.x a]
  | .mxrun _ a b _ => if b = 0 then [.x a] else [.x a, b4reg b]
  | .mxrd _ a _ _ | .mxflg _ a _ => [.x a]
  | .cpy a _ | .spawn a _ => [vreg a]
  | .send a b _ => if b = 0 then [vreg a] else [vreg a, b4reg b]
  | .wmset _ a b _ => if b = 0 then [.x a] else [.x a, b4reg b]
  | _ => []

/-- The registers and ports a syllable writes, CALL's link and MXRD's second register among them (R96). -/
def writesOf (i : Instr) : List Dest :=
  match i with
  | .add cl d .. | .addi cl d .. | .sub cl d .. | .and cl d .. | .andn cl d .. | .andi cl d .. | .or cl d ..
  | .ori cl d .. | .xor cl d .. | .xori cl d .. | .sll cl d .. | .srl cl d .. | .sra cl d .. | .slli cl d ..
  | .srli cl d .. | .srai cl d .. | .mul cl d .. | .mulh cl d .. | .mulhu cl d .. | .muli cl d .. | .min cl d ..
  | .max cl d .. | .minu cl d .. | .maxu cl d .. | .popc cl d .. | .clz cl d .. | .ctz cl d .. | .brev cl d ..
  | .sextb cl d .. | .sexth cl d .. | .sextw cl d .. | .zextw cl d .. | .div cl d .. | .divu cl d .. | .rem cl d ..
  | .remu cl d .. | .fadd cl d .. | .fsub cl d .. | .fmul cl d .. | .ffma cl d .. | .ffms cl d .. | .fmin cl d ..
  | .fmax cl d .. | .fabs cl d .. | .fneg cl d .. | .fdiv cl d .. | .fsqrt cl d .. | .frsq cl d .. | .fclass cl d ..
  | .fcvtFi cl d .. | .fcvtFu cl d .. | .fcvtIf cl d .. | .fcvtIfz cl d .. | .sel cl d .. | .movi cl d ..
  | .shori cl d .. => [Cl.reg cl d]
  | .xmov cl d .. => [Cl.reg (Cl.other cl) d]
  | .cmp _ _ pd .. | .fcmp _ _ pd .. | .cmpiEq _ pd .. | .cmpiLt _ pd .. | .cmpiLtu _ pd .. => [.p pd]
  | .vadd _ d .. | .vsub _ d .. | .vmul _ d .. | .vmulh _ d .. | .vmac _ d .. | .vmin _ d .. | .vmax _ d ..
  | .vabs _ d .. | .vshl _ d .. | .vshr _ d .. | .vrshr _ d .. | .vand _ d .. | .vor _ d .. | .vxor _ d ..
  | .vfadd _ d .. | .vfsub _ d .. | .vfmul _ d .. | .vffma _ d .. | .vfmin _ d .. | .vfmax _ d .. | .vfabs _ d ..
  | .vfneg _ d .. | .vfrcp _ d .. | .vfrsq _ d .. | .vadds _ d .. | .vmuls _ d .. | .vfmuls _ d .. | .vffmas _ d ..
  | .vsel _ d .. | .vperm _ d .. | .vslide _ d .. | .vbcast _ d .. | .vpopc _ d .. => [vreg d]
  | .vdot4 d .. | .vrng d .. | .vmovi d .. => [vreg d]
  | .vcmp _ _ md .. => [.m md]
  | .vext _ d _ _ => [.x d]
  | .vcvt _ _ _ d _ _ | .vquant _ _ d _ _ _ => [vreg d]
  | .vquantAuto _ d _ _ _ => [vreg d]
  | .vdeq _ _ d _ _ | .vred _ _ d _ _ => [vreg d]
  | .mcnt d _ => [.x d]
  | .ldb cl d .. | .ldbu cl d .. | .ldh cl d .. | .ldhu cl d .. | .ldw cl d .. | .ldwu cl d .. | .ldd cl d ..
  | .ldacq cl d .. => [Cl.reg cl d]
  | .ldg _ cl d .. => [Cl.reg cl d]
  | .vld d .. | .vlds d .. | .vgath d .. | .vldg d .. | .tld d .. => [vreg d]
  | .atom _ _ _ _ cl d .. => if d = 0 then [] else [Cl.reg cl d]
  | .call .. => [.x 31]
  | .waitt pd .. | .seqwait pd .. => [.p pd]
  | .plog _ d .. => [.p d]
  | .mlog _ d .. => [.m d]
  | .rdc d .. | .time d .. => [.x d]
  | .mxrd d _ b _ => if b = 0 then [vreg d] else [vreg d, b4reg b]
  | .mxflg d _ _ => [vreg d]
  | _ => []

/-- Does a write to this destination count under R96? Writes of x0, y0, p0 and m0 are discarded. -/
def Dest.counts (d : Dest) : Bool :=
  match d with
  | .x r => r ≠ 0 | .y r => r ≠ 0 | .p r => r ≠ 0 | .m r => r ≠ 0 | .v _ => true | .port _ => true

/-- The register kind and number of a write conflict in TRAPV (R96). -/
def Dest.code (d : Dest) : Nat :=
  match d with
  | .x r => r.toNat | .y r => 1 * 32 + r.toNat | .v r => 2 * 32 + r.toNat | .p r => 3 * 32 + r.toNat
  | .m r => 4 * 32 + r.toNat | .port r => 5 * 32 + r.toNat

/-- A source may be any register, QNI or QMR (R80, R81). -/
def Dest.readable (d : Dest) : Bool :=
  match d with | .port r => r = 24 || r = 27 | _ => true

/-- A destination may be any register, QNO, QMA or QEV (R80, R81). -/
def Dest.writable (d : Dest) : Bool :=
  match d with | .port r => r = 25 || r = 26 || r = 28 | _ => true

/-- Integer element types, ET 0 to 2 (R103). -/
def Ety.isInt (t : Ety) : Bool := match t with | .i8 | .i16 | .i32 => true | _ => false

/-- Float element types of the VFP group, ET 3 to 5 (R103). -/
def Ety.isFloat (t : Ety) : Bool := match t with | .f32 | .bf16 | .f16 => true | _ => false

/-- Element types ET 0 to 5: all but E4M3 and E5M2 (R103). -/
def Ety.isWide (t : Ety) : Bool := Ety.isInt t || Ety.isFloat t

/-- The control registers of R86. -/
def controlListed (n : Nat) : Bool :=
  n ≤ 4 || n = 0x10 || n = 0x11 || (0x20 ≤ n && n ≤ 0x22) || (0x30 ≤ n && n ≤ 0x6F) || (0x80 ≤ n && n ≤ 0x87) ||
    (0x100 ≤ n && n ≤ 0x147)

/-- The immediate of a shift: 0 to 63, or 0x800 for the literal (R105). -/
def shiftImm (imm : BitVec 12) : Bool := imm.toNat < 64 || imm = 0x800

/-- A place names a core of the package or a die (R268). -/
def Place.exists (p : Place) : Bool := match p with | .core n => n < 3072 | .die _ => true

/-- The type and operand rules of the maps beyond field widths and ports (R104 to R112). -/
def operandsOk (i : Instr) : Bool :=
  match i with
  | .slli _ _ _ imm _ | .srli _ _ _ imm _ | .srai _ _ _ imm _ => shiftImm imm
  | .vadd et _ _ _ _ | .vsub et _ _ _ _ | .vmul et _ _ _ _ | .vmulh et _ _ _ _ | .vmac et _ _ _ _ | .vmin et _ _ _ _
  | .vmax et _ _ _ _ | .vshl et _ _ _ _ | .vshr et _ _ _ _ | .vrshr et _ _ _ _ | .vand et _ _ _ _ | .vor et _ _ _ _
  | .vxor et _ _ _ _ | .vadds et _ _ _ _ | .vmuls et _ _ _ _ | .vperm et _ _ _ _ => Ety.isInt et
  | .vabs et _ _ _ | .vpopc et _ _ _ => Ety.isInt et
  | .vfadd et _ _ _ _ | .vfsub et _ _ _ _ | .vfmul et _ _ _ _ | .vffma et _ _ _ _ | .vfmin et _ _ _ _
  | .vfmax et _ _ _ _ | .vfmuls et _ _ _ _ | .vffmas et _ _ _ _ => Ety.isFloat et
  | .vfabs et _ _ _ | .vfneg et _ _ _ | .vfrcp et _ _ _ | .vfrsq et _ _ _ => Ety.isFloat et
  | .vcmp cc et _ _ _ _ =>
    match cc with
    | .eq | .ne | .lt | .le => Ety.isWide et
    | .ltu | .leu => Ety.isInt et
    | .un => Ety.isFloat et
  | .vsel et _ _ _ _ _ => Ety.isWide et
  | .vslide et _ _ _ _ => Ety.isWide et
  | .vbcast et _ _ _ => Ety.isWide et
  | .vext et _ _ _ => Ety.isWide et
  | .vcvt st dt sat _ _ _ => st ≠ dt && !(sat && dt = .f32)
  | .vquant et _ _ _ b _ | .vquantAuto et _ _ b _ => et = .f32 || (et = .bf16 && b = 0)
  | .vdeq et hi _ _ _ => et = .f32 || (et = .bf16 && !hi)
  | .vred op et _ _ _ => match op with | .or => Ety.isInt et | _ => Ety.isWide et
  | .vrng d a _ _ => d.toNat < 24 && a.toNat ≤ 24
  | .vldg d _ _ _ _ => d.toNat < 24
  | .tld d a _ _ => d.toNat < 24 && a.toNat ≤ 30
  | .tst _ a _ _ => a.toNat ≤ 30
  | .atom op acq _ _ _ d _ _ _ =>
    if op = .cas then d.toNat % 2 = 0 && d ≠ 0 else !(d = 0 && acq)
  | .vatom op d _ _ _ =>
    (op = .add || op = .and || op = .or || op = .min || op = .max) && d.toNat % 2 = 0 && d.toNat ≤ 22
  | .fenceJoin m _ | .fenceLoop m _ => m ≠ 0
  | .waitk m _ => m ≠ 0
  | .plog op _ _ b _ | .mlog op _ _ b _ => op ≠ .not || b = 0
  | .rdc _ c _ => controlListed c.toNat
  | .wrc c _ _ => controlListed c.toNat
  | .mxldb m _ _ => m ≠ 0
  | .mxrd d _ _ _ => d.toNat < 24
  | .mxflg d _ _ => d.toNat < 24
  | .cpy a _ | .spawn a _ => a.toNat ≤ 24
  | .send a _ _ => a.toNat ≤ 24
  | .debugStopDone c s | .taskStart c s | .resultLands c s | .holdRelease c s | .waitComplete c s | .gbarRelease c s
  | .trapTaken c s | .contextSave c s | .qnoDeparture c s => c < 3072 && s < 8
  | .atomicopFailed c s _ | .orderQueuePerform c s _ | .seqaddPerform c s _ | .atomicExecute c s _ => c < 3072 && s < 8
  | .fatalDetect c s _ _ => c < 3072 && s < 8
  | .cimScrub c _ _ | .loadLanding c _ | .bundleLineFill c _ | .copyLanding c _ | .copyComplete c _
  | .engineFailure c _ _ | .wmsetApply c _ | .mxrdDone c _ => c < 3072
  | .atticSpill c | .atticReplay c | .snldTableEffect c | .mxrunStart c | .qmaChunkArrival c | .mxrunStepComplete c
  | .mxrunEmission c | .mxldbLoad c | .mxclrDone c => c < 3072
  | .cellarRecordWrite p | .vaultCopyDone p => Place.exists p
  | .freezeWaveArrival p _ => Place.exists p
  | _ => true

/-- An instruction's operands satisfy every rule of its map entry: sources and destinations of the right direction
(R81), and the operand rules. -/
def formOk (i : Instr) : Bool :=
  (readsOf i).all Dest.readable && (writesOf i).all Dest.writable && operandsOk i

end Sys2Proof.Machine
end

