-- ==== Sys2Proof/WellFormed.lean ====
section
/-! DEFINITION. Well-formed instructions: those the encoding chapter gives a meaning to (R102 to R113). -/

namespace Sys2Proof

/-- An instruction that no rule of the opcode maps rejects. -/
def Instr.wellFormed (i : Instr) : Bool := Machine.formOk i

end Sys2Proof
end

