-- ==== Sys2Proof/Decode.lean ====
section
/-! DEFINITION. The decoder of one syllable, total on any word and rejecting by name, and the encoder written from
the same opcode maps (R101 to R113). Words are naturals below 2^32. -/

namespace Sys2Proof

open Machine (formOk posOf)

/-- Why a word is no instruction at its position; each traps ILLEGAL (R113). -/
inductive DecErr
  | opZero          -- OP zero and another bit set (R95)
  | reservedOp      -- an OP not listed (R104)
  | reservedFunction -- a function code, type or order not listed (R104)
  | unusedField     -- a field that must be zero is not (R102)
  | operandRule     -- a port, type or operand rule is broken (R81, R102 to R112)
  deriving DecidableEq, Repr

/-! ### Fields -/

/-- Bits [lo + n - 1 : lo] of a word. -/
def field (w lo n : Nat) : BitVec n := BitVec.ofNat n (w / 2 ^ lo)

/-- The guard, bits [3:0] (R101). -/
def guardField (w : Nat) : Guard := ⟨field w 1 3, w % 2 = 1⟩

/-- The guard as bits [3:0]. -/
def guardBits (g : Guard) : Nat := g.g.toNat * 2 + g.n.toNat

/-- The token fields, bits [11:0] of an E syllable (R101). -/
def toksField (w : Nat) : Toks := ⟨field w 9 3, field w 6 3, field w 3 3, field w 0 3⟩

/-- The token fields as bits [11:0]. -/
def toksBits (k : Toks) : Nat := k.kp.toNat * 512 + k.kc0.toNat * 64 + k.kc1.toNat * 8 + k.kc2.toNat

/-- ET codes (R103). -/
def etyOf (n : BitVec 3) : Ety :=
  match n.toNat with
  | 0 => .i8 | 1 => .i16 | 2 => .i32 | 3 => .f32 | 4 => .bf16 | 5 => .f16 | 6 => .e4m3 | _ => .e5m2

/-- The ET code of a type (R103). -/
def etyCode (t : Ety) : Nat :=
  match t with
  | .i8 => 0 | .i16 => 1 | .i32 => 2 | .f32 => 3 | .bf16 => 4 | .f16 => 5 | .e4m3 => 6 | .e5m2 => 7

/-- AOP codes; 10 to 15 are reserved (R109). -/
def aopOf (n : Nat) : Option Aop :=
  match n with
  | 0 => some .add | 1 => some .and | 2 => some .or | 3 => some .xor | 4 => some .min | 5 => some .max
  | 6 => some .minu | 7 => some .maxu | 8 => some .xchg | 9 => some .cas | _ => none

/-- The AOP code of an operation (R109). -/
def aopCode (a : Aop) : Nat :=
  match a with
  | .add => 0 | .and => 1 | .or => 2 | .xor => 3 | .min => 4 | .max => 5 | .minu => 6 | .maxu => 7 | .xchg => 8
  | .cas => 9

/-- PLOG and MLOG function codes (R368). -/
def logOf (n : Nat) : Option LogOp :=
  match n with
  | 1 => some .and | 2 => some .or | 3 => some .xor | 4 => some .andn | 5 => some .not | _ => none

/-- The function code of a logic operation (R368). -/
def logCode (o : LogOp) : Nat :=
  match o with | .and => 1 | .or => 2 | .xor => 3 | .andn => 4 | .not => 5

/-- LDG and STG widths (R364). -/
def widthOf (n : BitVec 2) : Width := match n.toNat with | 0 => .b | 1 => .h | 2 => .w | _ => .d

/-- The code of a width (R364). -/
def widthCode (w : Width) : Nat := match w with | .b => 0 | .h => 1 | .w => 2 | .d => 3

/-! ### The decoder -/

/-- Accept an instruction when its unused fields are zero (R102). -/
def whenZero (c : Bool) (i : Instr) : Except DecErr Instr := if c then .ok i else .error .unusedField

/-- The INT group, OP 0x01 of X and Y (R105). -/
def decodeInt (cl : Cl) (f : Nat) (d a b : Reg) (g : Guard) : Except DecErr Instr :=
  match f with
  | 0x01 => .ok (.add cl d a b g)
  | 0x02 => .ok (.sub cl d a b g)
  | 0x03 => .ok (.and cl d a b g)
  | 0x04 => .ok (.or cl d a b g)
  | 0x05 => .ok (.xor cl d a b g)
  | 0x06 => .ok (.andn cl d a b g)
  | 0x07 => .ok (.sll cl d a b g)
  | 0x08 => .ok (.srl cl d a b g)
  | 0x09 => .ok (.sra cl d a b g)
  | 0x0A => .ok (.mul cl d a b g)
  | 0x0B => .ok (.mulh cl d a b g)
  | 0x0C => .ok (.mulhu cl d a b g)
  | 0x0D => .ok (.min cl d a b g)
  | 0x0E => .ok (.max cl d a b g)
  | 0x0F => .ok (.minu cl d a b g)
  | 0x10 => .ok (.maxu cl d a b g)
  | 0x11 => whenZero (b = 0) (.popc cl d a g)
  | 0x12 => whenZero (b = 0) (.clz cl d a g)
  | 0x13 => whenZero (b = 0) (.ctz cl d a g)
  | 0x14 => whenZero (b = 0) (.brev cl d a g)
  | 0x15 => whenZero (b = 0) (.sextb cl d a g)
  | 0x16 => whenZero (b = 0) (.sexth cl d a g)
  | 0x17 => whenZero (b = 0) (.sextw cl d a g)
  | 0x18 => whenZero (b = 0) (.zextw cl d a g)
  | 0x19 => .ok (.div cl d a b g)
  | 0x1A => .ok (.divu cl d a b g)
  | 0x1B => .ok (.rem cl d a b g)
  | 0x1C => .ok (.remu cl d a b g)
  | _ => .error .reservedFunction

/-- The FP group, OP 0x03 of X and Y (R105). -/
def decodeFp (cl : Cl) (f : Nat) (d a b : Reg) (g : Guard) : Except DecErr Instr :=
  match f with
  | 0x01 => .ok (.fadd cl d a b g)
  | 0x02 => .ok (.fsub cl d a b g)
  | 0x03 => .ok (.fmul cl d a b g)
  | 0x04 => .ok (.ffma cl d a b g)
  | 0x05 => .ok (.ffms cl d a b g)
  | 0x06 => .ok (.fmin cl d a b g)
  | 0x07 => .ok (.fmax cl d a b g)
  | 0x08 => whenZero (b = 0) (.fabs cl d a g)
  | 0x09 => whenZero (b = 0) (.fneg cl d a g)
  | 0x0A => .ok (.fdiv cl d a b g)
  | 0x0B => whenZero (b = 0) (.fsqrt cl d a g)
  | 0x0C => whenZero (b = 0) (.frsq cl d a g)
  | 0x0D => whenZero (b = 0) (.fclass cl d a g)
  | 0x10 => whenZero (b = 0) (.fcvtFi cl d a g)
  | 0x11 => whenZero (b = 0) (.fcvtFu cl d a g)
  | 0x12 => whenZero (b = 0) (.fcvtIf cl d a g)
  | 0x13 => whenZero (b = 0) (.fcvtIfz cl d a g)
  | _ => .error .reservedFunction

/-- CMP conditions (R339). -/
def cmpOf (f : Nat) : Option Cmp :=
  match f with
  | 1 => some .eq | 2 => some .ne | 3 => some .lt | 4 => some .ltu | 5 => some .le | 6 => some .leu | _ => none

/-- The code of a CMP condition (R339). -/
def cmpCode (c : Cmp) : Nat := match c with | .eq => 1 | .ne => 2 | .lt => 3 | .ltu => 4 | .le => 5 | .leu => 6

/-- FCMP conditions (R349). -/
def fcmpOf (f : Nat) : Option FCmp :=
  match f with | 1 => some .eq | 2 => some .lt | 3 => some .le | 4 => some .un | _ => none

/-- The code of an FCMP condition (R349). -/
def fcmpCode (c : FCmp) : Nat := match c with | .eq => 1 | .lt => 2 | .le => 3 | .un => 4

/-- A register field that names a predicate or mask has bits [4:3] zero (R102). -/
def small (r : Reg) : Bool := r.toNat < 8

/-- The predicate or mask a field names. -/
def low3 (r : Reg) : BitVec 3 := r.setWidth 3

/-- The map of slots X and Y (R105). -/
def decodeXY (cl : Cl) (w : Nat) : Except DecErr Instr :=
  let d : Reg := field w 21 5
  let a : Reg := field w 16 5
  let b : Reg := field w 11 5
  let f : Nat := w / 16 % 128
  let imm : BitVec 12 := field w 4 12
  let g := guardField w
  match w / 2 ^ 26 % 64 with
  | 0x01 => decodeInt cl f d a b g
  | 0x02 =>
    match cmpOf f with
    | some c => whenZero (small d) (.cmp c cl (low3 d) a b g)
    | none => .error .reservedFunction
  | 0x03 => decodeFp cl f d a b g
  | 0x04 =>
    match fcmpOf f with
    | some c => whenZero (small d) (.fcmp c cl (low3 d) a b g)
    | none => .error .reservedFunction
  | 0x05 => whenZero (b = 0 && f = 0) (.xmov cl d a g)
  | 0x06 => whenZero (f < 8) (.sel cl d (BitVec.ofNat 3 f) a b g)
  | 0x08 => .ok (.addi cl d a imm g)
  | 0x09 => .ok (.andi cl d a imm g)
  | 0x0A => .ok (.ori cl d a imm g)
  | 0x0B => .ok (.xori cl d a imm g)
  | 0x0C => .ok (.slli cl d a imm g)
  | 0x0D => .ok (.srli cl d a imm g)
  | 0x0E => .ok (.srai cl d a imm g)
  | 0x0F => .ok (.muli cl d a imm g)
  | 0x10 => whenZero (small d) (.cmpiEq cl (low3 d) a imm g)
  | 0x11 => whenZero (small d) (.cmpiLt cl (low3 d) a imm g)
  | 0x12 => whenZero (small d) (.cmpiLtu cl (low3 d) a imm g)
  | 0x14 => .ok (.movi cl d (field w 4 17) g)
  | 0x15 => whenZero (w / 2 ^ 20 % 2 = 0) (.shori cl d (field w 4 16) g)
  | _ => .error .reservedOp

/-- The VINT group (R106). -/
def decodeVint (et : Ety) (fn : Nat) (d a b : Reg) (g : Guard) : Except DecErr Instr :=
  match fn with
  | 0x1 => .ok (.vadd et d a b g)
  | 0x2 => .ok (.vsub et d a b g)
  | 0x3 => .ok (.vmul et d a b g)
  | 0x4 => .ok (.vmulh et d a b g)
  | 0x5 => .ok (.vmac et d a b g)
  | 0x6 => .ok (.vmin et d a b g)
  | 0x7 => .ok (.vmax et d a b g)
  | 0x8 => whenZero (b = 0) (.vabs et d a g)
  | 0x9 => .ok (.vshl et d a b g)
  | 0xA => .ok (.vshr et d a b g)
  | 0xB => .ok (.vrshr et d a b g)
  | 0xC => .ok (.vand et d a b g)
  | 0xD => .ok (.vor et d a b g)
  | 0xE => .ok (.vxor et d a b g)
  | 0xF => if et = .i8 then .ok (.vdot4 d a b g) else .error .reservedFunction
  | _ => .error .reservedFunction

/-- The VFP group (R106). -/
def decodeVfp (et : Ety) (fn : Nat) (d a b : Reg) (g : Guard) : Except DecErr Instr :=
  match fn with
  | 0x1 => .ok (.vfadd et d a b g)
  | 0x2 => .ok (.vfsub et d a b g)
  | 0x3 => .ok (.vfmul et d a b g)
  | 0x4 => .ok (.vffma et d a b g)
  | 0x5 => .ok (.vfmin et d a b g)
  | 0x6 => .ok (.vfmax et d a b g)
  | 0x7 => whenZero (b = 0) (.vfabs et d a g)
  | 0x8 => whenZero (b = 0) (.vfneg et d a g)
  | 0x9 => whenZero (b = 0) (.vfrcp et d a g)
  | 0xA => whenZero (b = 0) (.vfrsq et d a g)
  | _ => .error .reservedFunction

/-- The map of slot VA (R106). -/
def decodeVA (w : Nat) : Except DecErr Instr :=
  let d : Reg := field w 21 5
  let a : Reg := field w 16 5
  let b : Reg := field w 11 5
  let et := etyOf (field w 8 3)
  let fn : Nat := w / 16 % 16
  let g := guardField w
  match w / 2 ^ 26 % 64 with
  | 0x01 => decodeVint et fn d a b g
  | 0x02 => decodeVfp et fn d a b g
  | 0x03 =>
    match fn with
    | 0x1 => .ok (.vadds et d a b g)
    | 0x2 => .ok (.vmuls et d a b g)
    | 0x3 => .ok (.vfmuls et d a b g)
    | 0x4 => .ok (.vffmas et d a b g)
    | _ => .error .reservedFunction
  | _ => .error .reservedOp

/-- VCMP conditions (R413). -/
def vcmpOf (fn : Nat) : Option VCmp :=
  match fn with
  | 1 => some .eq | 2 => some .ne | 3 => some .lt | 4 => some .le | 5 => some .ltu | 6 => some .leu | 7 => some .un
  | _ => none

/-- The code of a VCMP condition (R413). -/
def vcmpCode (c : VCmp) : Nat :=
  match c with | .eq => 1 | .ne => 2 | .lt => 3 | .le => 4 | .ltu => 5 | .leu => 6 | .un => 7

/-- VRED operations (R430). -/
def redOf (fn : Nat) : Option RedOp :=
  match fn with | 1 => some .sum | 2 => some .min | 3 => some .max | 4 => some .or | _ => none

/-- The code of a VRED operation (R430). -/
def redCode (o : RedOp) : Nat := match o with | .sum => 1 | .min => 2 | .max => 3 | .or => 4

/-- The map of slot VB (R107). -/
def decodeVB (w : Nat) : Except DecErr Instr :=
  let d : Reg := field w 21 5
  let a : Reg := field w 16 5
  let b : Reg := field w 11 5
  let et := etyOf (field w 8 3)
  let fn : Nat := w / 16 % 16
  let g := guardField w
  match w / 2 ^ 26 % 64 with
  | 0x01 =>
    match vcmpOf fn with
    | some c => whenZero (small d) (.vcmp c et (low3 d) a b g)
    | none => .error .reservedFunction
  | 0x02 => whenZero (fn < 8) (.vsel et d (BitVec.ofNat 3 fn) a b g)
  | 0x03 => whenZero (fn = 0) (.vperm et d a b g)
  | 0x04 => whenZero (fn = 0) (.vslide et d a b g)
  | 0x05 => whenZero (fn = 0 && b = 0) (.vbcast et d a g)
  | 0x06 => whenZero (fn = 0 && w % 16 = 0) (.vext et d a b)
  | 0x07 => whenZero (b = 0) (.vcvt et (etyOf (BitVec.ofNat 3 fn)) (8 ≤ fn) d a g)
  | 0x08 =>
    if fn < 4 then .ok (.vquant et (BitVec.ofNat 2 fn) d a b g)
    else if fn = 4 then .ok (.vquantAuto et d a b g)
    else .error .reservedFunction
  | 0x09 => whenZero (fn < 2 && b = 0) (.vdeq et (fn = 1) d a g)
  | 0x0A =>
    match redOf fn with
    | some o => whenZero (b = 0) (.vred o et d a g)
    | none => .error .reservedFunction
  | 0x0B => if et = .i32 then whenZero (fn = 0) (.vrng d a b g) else .error .reservedFunction
  | 0x0C => .ok (.vmovi d (field w 4 17) g)
  | 0x0D => whenZero (fn = 0 && b = 0) (.vpopc et d a g)
  | 0x0E => whenZero (small a && w % 2 ^ 16 = 0) (.mcnt d (low3 a))
  | _ => .error .reservedOp

/-- The map of slot L (R108 to R110). -/
def decodeL (w : Nat) : Except DecErr Instr :=
  let d : Reg := field w 21 5
  let a : Reg := field w 16 5
  let sid : BitVec 4 := field w 12 4
  let yd : Bool := w / 2 ^ 11 % 2 = 1
  let cl : Cl := if yd then .y else .x
  let off : BitVec 7 := field w 4 7
  let r : Reg := field w 4 5
  let hi : Nat := w / 2 ^ 9 % 4
  let g := guardField w
  match w / 2 ^ 26 % 64 with
  | 0x01 => .ok (.ldb cl d a sid off g)
  | 0x02 => .ok (.ldbu cl d a sid off g)
  | 0x03 => .ok (.ldh cl d a sid off g)
  | 0x04 => .ok (.ldhu cl d a sid off g)
  | 0x05 => .ok (.ldw cl d a sid off g)
  | 0x06 => .ok (.ldwu cl d a sid off g)
  | 0x07 => .ok (.ldd cl d a sid off g)
  | 0x08 => .ok (.stb cl d a sid off g)
  | 0x09 => .ok (.sth cl d a sid off g)
  | 0x0A => .ok (.stw cl d a sid off g)
  | 0x0B => .ok (.std cl d a sid off g)
  | 0x0C => whenZero (!yd) (.vld d a sid off g)
  | 0x0D => whenZero (!yd) (.vst d a sid off g)
  | 0x0E => whenZero (!yd && hi = 0) (.vlds d a sid r g)
  | 0x0F => whenZero (!yd && hi = 0) (.vsts d a sid r g)
  | 0x10 => whenZero (!yd && hi = 0) (.vgath d a sid r g)
  | 0x11 => whenZero (!yd && hi = 0) (.vscat d a sid r g)
  | 0x12 => .ok (.ldg (widthOf (field w 9 2)) cl d a sid (field w 4 5) g)
  | 0x13 => .ok (.stg (widthOf (field w 9 2)) cl d a sid (field w 4 5) g)
  | 0x14 => whenZero (!yd) (.vldg d a sid off g)
  | 0x15 => whenZero (!yd) (.vstg d a sid off g)
  | 0x16 => .ok (.ldacq cl d a sid off g)
  | 0x17 => .ok (.strel cl d a sid off g)
  | 0x18 =>
    match aopOf (w / 2 ^ 7 % 16) with
    | some op => .ok (.atom op (w / 2 ^ 5 % 2 = 1) (w / 2 ^ 6 % 2 = 1) (w / 2 ^ 4 % 2 = 1) cl d a sid g)
    | none => .error .reservedFunction
  | 0x19 =>
    match aopOf (w / 2 ^ 7 % 16) with
    | some op => whenZero (!yd && w / 2 ^ 4 % 8 = 0) (.vatom op d a sid g)
    | none => .error .reservedFunction
  | 0x1A =>
    match w / 2 ^ 8 % 4 with
    | 0 => whenZero (w / 2 ^ 4 % 16 = 0) (.fenceJoin (field w 10 16) g)
    | 1 => whenZero (w / 2 ^ 4 % 16 = 0) (.fenceLoop (field w 10 16) g)
    | 2 => whenZero (w / 2 ^ 4 % 16 = 0 && w / 2 ^ 10 % 2 ^ 16 = 0) (.fenceFull g)
    | _ => .error .reservedFunction
  | 0x1B => whenZero (!yd && off = 0) (.tld d a sid g)
  | 0x1C => whenZero (!yd && off = 0) (.tst d a sid g)
  | _ => .error .reservedOp

/-- The map of slot C (R111). -/
def decodeC (w : Nat) : Except DecErr Instr :=
  let d : Reg := field w 21 5
  let a : Reg := field w 16 5
  let b : Reg := field w 11 5
  let f : Nat := w / 16 % 128
  let imm : BitVec 12 := field w 4 12
  let g := guardField w
  match w / 2 ^ 26 % 64 with
  | 0x01 => .ok (.br (field w 4 22) g)
  | 0x02 => .ok (.call (field w 4 22) g)
  | 0x03 => whenZero (d = 0 && b = 0 && f = 0) (.ret a g)
  | 0x04 => whenZero (d = 0 && b = 0 && f = 0) (.brx a g)
  | 0x06 => whenZero (d = 0) (.wait (field w 4 17) g)
  | 0x07 => whenZero (small d && b = 0 && f = 0) (.waitt (low3 d) a g)
  | 0x08 => whenZero (d = 0 && f = 0) (.waita a b g)
  | 0x09 => whenZero (d = 0 && f = 0) (.waitb a b g)
  | 0x0A => whenZero (d = 0 && w / 2 ^ 10 % 64 = 0) (.waitmb (field w 4 6) a g)
  | 0x0B => whenZero (d = 0 && w / 2 ^ 4 % 2 = 0 && w / 2 ^ 12 % 512 = 0) (.waitk (field w 5 7) g)
  | 0x0C => whenZero (d = 0 && b = 0 && f = 0) (.arrive a g)
  | 0x0D =>
    match logOf f with
    | some o => whenZero (small d && small a && small b) (.plog o (low3 d) (low3 a) (low3 b) g)
    | none => .error .reservedFunction
  | 0x0E =>
    match logOf f with
    | some o => whenZero (small d && small a && small b) (.mlog o (low3 d) (low3 a) (low3 b) g)
    | none => .error .reservedFunction
  | 0x10 => whenZero (a = 0) (.rdc d imm g)
  | 0x11 => whenZero (d = 0) (.wrc imm a g)
  | 0x12 => whenZero (d = 0) (.trap (field w 4 17) g)
  | 0x13 => whenZero (d = 0 && a = 0 && b = 0 && f = 0) (.eret g)
  | 0x14 => whenZero (d = 0 && a = 0 && b = 0 && f = 0) (.exit g)
  | 0x15 => whenZero (d = 0 && b = 0) (.mark a (field w 4 7) g)
  | 0x16 => whenZero (a = 0 && b = 0 && f = 0) (.time d g)
  | 0x17 => whenZero (d = 0 && f = 0) (.seqadd a b g)
  | 0x18 => whenZero (small d && f = 0) (.seqwait (low3 d) a b g)
  | 0x19 => whenZero (d = 0 && a = 0 && b = 0 && f = 0) (.gbar g)
  | _ => .error .reservedOp

/-- The map of slot E (R112). -/
def decodeE (w : Nat) : Except DecErr Instr :=
  let d : Reg := field w 21 5
  let a : Reg := field w 16 5
  let b : BitVec 4 := field w 12 4
  let k := toksField w
  match w / 2 ^ 26 % 64 with
  | 0x01 => whenZero (d.toNat < 16 && b = 0) (.mxldb (d.setWidth 4) a k)
  | 0x02 => whenZero (d.toNat < 2) (.mxrun (d = 1) a b k)
  | 0x03 => .ok (.mxrd d a b k)
  | 0x04 => whenZero (b = 0) (.mxflg d a k)
  | 0x05 => whenZero (d.toNat < 2 && a = 0 && b = 0) (.mxclr (d = 1) k)
  | 0x06 => whenZero (d = 0 && b = 0) (.cpy a k)
  | 0x07 => whenZero (d = 0) (.send a b k)
  | 0x08 => whenZero (d = 0 && b = 0) (.snld a k)
  | 0x09 => whenZero (d = 0 && b = 0) (.spawn a k)
  | 0x0A => whenZero (small d) (.wmset (low3 d) a b k)
  | _ => .error .reservedOp

/-- The map of a position. -/
def decodeMap (pos : Pos) (w : Nat) : Except DecErr Instr :=
  match pos with
  | .x => decodeXY .x w
  | .y => decodeXY .y w
  | .va => decodeVA w
  | .vb => decodeVB w
  | .l => decodeL w
  | .c => decodeC w
  | .e => decodeE w

/-- Accept a well-formed instruction (R81, R102 to R112). -/
def accept (i : Instr) : Except DecErr Instr := if i.wellFormed then .ok i else .error .operandRule

/-- The instruction that a 32-bit syllable holds at a position (R95, R104, R113). -/
def decode (pos : Pos) (w : Nat) : Except DecErr Instr :=
  if w = 0 then .ok (.nop pos)
  else if w / 2 ^ 26 % 64 = 0 then .error .opZero
  else (decodeMap pos w).bind accept

/-! ### The encoder -/

/-- R format (R101). -/
def fmtR (op : Nat) (d a b : Reg) (f : Nat) (g : Guard) : Nat :=
  op * 2 ^ 26 + d.toNat * 2 ^ 21 + a.toNat * 2 ^ 16 + b.toNat * 2 ^ 11 + f * 16 + guardBits g

/-- I format (R101). -/
def fmtI (op : Nat) (d a : Reg) (imm : BitVec 12) (g : Guard) : Nat :=
  op * 2 ^ 26 + d.toNat * 2 ^ 21 + a.toNat * 2 ^ 16 + imm.toNat * 16 + guardBits g

/-- U format (R101). -/
def fmtU (op : Nat) (d : Reg) (imm : Nat) (g : Guard) : Nat :=
  op * 2 ^ 26 + d.toNat * 2 ^ 21 + imm * 16 + guardBits g

/-- Br format (R101). -/
def fmtBr (op : Nat) (off : BitVec 22) (g : Guard) : Nat := op * 2 ^ 26 + off.toNat * 16 + guardBits g

/-- Mem format (R101). -/
def fmtMem (op : Nat) (d a : Reg) (sid : BitVec 4) (cl : Cl) (off : Nat) (g : Guard) : Nat :=
  op * 2 ^ 26 + d.toNat * 2 ^ 21 + a.toNat * 2 ^ 16 + sid.toNat * 2 ^ 12 +
    (match cl with | .x => 0 | .y => 2 ^ 11) + off * 16 + guardBits g

/-- En format (R101). -/
def fmtEn (op d : Nat) (a : Reg) (b : BitVec 4) (k : Toks) : Nat :=
  op * 2 ^ 26 + d * 2 ^ 21 + a.toNat * 2 ^ 16 + b.toNat * 2 ^ 12 + toksBits k

/-- VR format (R101). -/
def fmtVR (op : Nat) (d a b : Reg) (et : Ety) (fn : Nat) (g : Guard) : Nat :=
  fmtR op d a b (etyCode et * 16 + fn) g

/-- A predicate or mask as a register field. -/
def reg3 (p : BitVec 3) : Reg := p.setWidth 5

/-- The word of a syllable, from the encoding tables of R105 to R112; none for a device step. -/
def encodeWord (i : Instr) : Option Nat :=
  match i with
  | .nop _ => some 0
  | .add _ d a b g => some (fmtR 0x01 d a b 0x01 g)
  | .sub _ d a b g => some (fmtR 0x01 d a b 0x02 g)
  | .and _ d a b g => some (fmtR 0x01 d a b 0x03 g)
  | .or _ d a b g => some (fmtR 0x01 d a b 0x04 g)
  | .xor _ d a b g => some (fmtR 0x01 d a b 0x05 g)
  | .andn _ d a b g => some (fmtR 0x01 d a b 0x06 g)
  | .sll _ d a b g => some (fmtR 0x01 d a b 0x07 g)
  | .srl _ d a b g => some (fmtR 0x01 d a b 0x08 g)
  | .sra _ d a b g => some (fmtR 0x01 d a b 0x09 g)
  | .mul _ d a b g => some (fmtR 0x01 d a b 0x0A g)
  | .mulh _ d a b g => some (fmtR 0x01 d a b 0x0B g)
  | .mulhu _ d a b g => some (fmtR 0x01 d a b 0x0C g)
  | .min _ d a b g => some (fmtR 0x01 d a b 0x0D g)
  | .max _ d a b g => some (fmtR 0x01 d a b 0x0E g)
  | .minu _ d a b g => some (fmtR 0x01 d a b 0x0F g)
  | .maxu _ d a b g => some (fmtR 0x01 d a b 0x10 g)
  | .popc _ d a g => some (fmtR 0x01 d a 0 0x11 g)
  | .clz _ d a g => some (fmtR 0x01 d a 0 0x12 g)
  | .ctz _ d a g => some (fmtR 0x01 d a 0 0x13 g)
  | .brev _ d a g => some (fmtR 0x01 d a 0 0x14 g)
  | .sextb _ d a g => some (fmtR 0x01 d a 0 0x15 g)
  | .sexth _ d a g => some (fmtR 0x01 d a 0 0x16 g)
  | .sextw _ d a g => some (fmtR 0x01 d a 0 0x17 g)
  | .zextw _ d a g => some (fmtR 0x01 d a 0 0x18 g)
  | .div _ d a b g => some (fmtR 0x01 d a b 0x19 g)
  | .divu _ d a b g => some (fmtR 0x01 d a b 0x1A g)
  | .rem _ d a b g => some (fmtR 0x01 d a b 0x1B g)
  | .remu _ d a b g => some (fmtR 0x01 d a b 0x1C g)
  | .cmp c _ pd a b g => some (fmtR 0x02 (reg3 pd) a b (cmpCode c) g)
  | .fadd _ d a b g => some (fmtR 0x03 d a b 0x01 g)
  | .fsub _ d a b g => some (fmtR 0x03 d a b 0x02 g)
  | .fmul _ d a b g => some (fmtR 0x03 d a b 0x03 g)
  | .ffma _ d a b g => some (fmtR 0x03 d a b 0x04 g)
  | .ffms _ d a b g => some (fmtR 0x03 d a b 0x05 g)
  | .fmin _ d a b g => some (fmtR 0x03 d a b 0x06 g)
  | .fmax _ d a b g => some (fmtR 0x03 d a b 0x07 g)
  | .fabs _ d a g => some (fmtR 0x03 d a 0 0x08 g)
  | .fneg _ d a g => some (fmtR 0x03 d a 0 0x09 g)
  | .fdiv _ d a b g => some (fmtR 0x03 d a b 0x0A g)
  | .fsqrt _ d a g => some (fmtR 0x03 d a 0 0x0B g)
  | .frsq _ d a g => some (fmtR 0x03 d a 0 0x0C g)
  | .fclass _ d a g => some (fmtR 0x03 d a 0 0x0D g)
  | .fcvtFi _ d a g => some (fmtR 0x03 d a 0 0x10 g)
  | .fcvtFu _ d a g => some (fmtR 0x03 d a 0 0x11 g)
  | .fcvtIf _ d a g => some (fmtR 0x03 d a 0 0x12 g)
  | .fcvtIfz _ d a g => some (fmtR 0x03 d a 0 0x13 g)
  | .fcmp c _ pd a b g => some (fmtR 0x04 (reg3 pd) a b (fcmpCode c) g)
  | .xmov _ d a g => some (fmtR 0x05 d a 0 0 g)
  | .sel _ d pf a b g => some (fmtR 0x06 d a b pf.toNat g)
  | .addi _ d a imm g => some (fmtI 0x08 d a imm g)
  | .andi _ d a imm g => some (fmtI 0x09 d a imm g)
  | .ori _ d a imm g => some (fmtI 0x0A d a imm g)
  | .xori _ d a imm g => some (fmtI 0x0B d a imm g)
  | .slli _ d a imm g => some (fmtI 0x0C d a imm g)
  | .srli _ d a imm g => some (fmtI 0x0D d a imm g)
  | .srai _ d a imm g => some (fmtI 0x0E d a imm g)
  | .muli _ d a imm g => some (fmtI 0x0F d a imm g)
  | .cmpiEq _ pd a imm g => some (fmtI 0x10 (reg3 pd) a imm g)
  | .cmpiLt _ pd a imm g => some (fmtI 0x11 (reg3 pd) a imm g)
  | .cmpiLtu _ pd a imm g => some (fmtI 0x12 (reg3 pd) a imm g)
  | .movi _ d imm g => some (fmtU 0x14 d imm.toNat g)
  | .shori _ d imm g => some (fmtU 0x15 d imm.toNat g)
  | .vadd et d a b g => some (fmtVR 0x01 d a b et 0x1 g)
  | .vsub et d a b g => some (fmtVR 0x01 d a b et 0x2 g)
  | .vmul et d a b g => some (fmtVR 0x01 d a b et 0x3 g)
  | .vmulh et d a b g => some (fmtVR 0x01 d a b et 0x4 g)
  | .vmac et d a b g => some (fmtVR 0x01 d a b et 0x5 g)
  | .vmin et d a b g => some (fmtVR 0x01 d a b et 0x6 g)
  | .vmax et d a b g => some (fmtVR 0x01 d a b et 0x7 g)
  | .vabs et d a g => some (fmtVR 0x01 d a 0 et 0x8 g)
  | .vshl et d a b g => some (fmtVR 0x01 d a b et 0x9 g)
  | .vshr et d a b g => some (fmtVR 0x01 d a b et 0xA g)
  | .vrshr et d a b g => some (fmtVR 0x01 d a b et 0xB g)
  | .vand et d a b g => some (fmtVR 0x01 d a b et 0xC g)
  | .vor et d a b g => some (fmtVR 0x01 d a b et 0xD g)
  | .vxor et d a b g => some (fmtVR 0x01 d a b et 0xE g)
  | .vdot4 d a b g => some (fmtVR 0x01 d a b .i8 0xF g)
  | .vfadd et d a b g => some (fmtVR 0x02 d a b et 0x1 g)
  | .vfsub et d a b g => some (fmtVR 0x02 d a b et 0x2 g)
  | .vfmul et d a b g => some (fmtVR 0x02 d a b et 0x3 g)
  | .vffma et d a b g => some (fmtVR 0x02 d a b et 0x4 g)
  | .vfmin et d a b g => some (fmtVR 0x02 d a b et 0x5 g)
  | .vfmax et d a b g => some (fmtVR 0x02 d a b et 0x6 g)
  | .vfabs et d a g => some (fmtVR 0x02 d a 0 et 0x7 g)
  | .vfneg et d a g => some (fmtVR 0x02 d a 0 et 0x8 g)
  | .vfrcp et d a g => some (fmtVR 0x02 d a 0 et 0x9 g)
  | .vfrsq et d a g => some (fmtVR 0x02 d a 0 et 0xA g)
  | .vadds et d a b g => some (fmtVR 0x03 d a b et 0x1 g)
  | .vmuls et d a b g => some (fmtVR 0x03 d a b et 0x2 g)
  | .vfmuls et d a b g => some (fmtVR 0x03 d a b et 0x3 g)
  | .vffmas et d a b g => some (fmtVR 0x03 d a b et 0x4 g)
  | .vcmp c et md a b g => some (fmtVR 0x01 (reg3 md) a b et (vcmpCode c) g)
  | .vsel et d mf a b g => some (fmtVR 0x02 d a b et mf.toNat g)
  | .vperm et d a b g => some (fmtVR 0x03 d a b et 0 g)
  | .vslide et d a b g => some (fmtVR 0x04 d a b et 0 g)
  | .vbcast et d a g => some (fmtVR 0x05 d a 0 et 0 g)
  | .vext et d a b => some (fmtVR 0x06 d a b et 0 ⟨0, false⟩)
  | .vcvt st dt sat d a g => some (fmtVR 0x07 d a 0 st (sat.toNat * 8 + etyCode dt) g)
  | .vquant et kt d a b g => some (fmtVR 0x08 d a b et kt.toNat g)
  | .vquantAuto et d a b g => some (fmtVR 0x08 d a b et 4 g)
  | .vdeq et hi d a g => some (fmtVR 0x09 d a 0 et hi.toNat g)
  | .vred o et d a g => some (fmtVR 0x0A d a 0 et (redCode o) g)
  | .vrng d a b g => some (fmtVR 0x0B d a b .i32 0 g)
  | .vmovi d imm g => some (fmtU 0x0C d imm.toNat g)
  | .vpopc et d a g => some (fmtVR 0x0D d a 0 et 0 g)
  | .mcnt d a => some (fmtR 0x0E d (reg3 a) 0 0 ⟨0, false⟩)
  | .ldb cl d a sid off g => some (fmtMem 0x01 d a sid cl off.toNat g)
  | .ldbu cl d a sid off g => some (fmtMem 0x02 d a sid cl off.toNat g)
  | .ldh cl d a sid off g => some (fmtMem 0x03 d a sid cl off.toNat g)
  | .ldhu cl d a sid off g => some (fmtMem 0x04 d a sid cl off.toNat g)
  | .ldw cl d a sid off g => some (fmtMem 0x05 d a sid cl off.toNat g)
  | .ldwu cl d a sid off g => some (fmtMem 0x06 d a sid cl off.toNat g)
  | .ldd cl d a sid off g => some (fmtMem 0x07 d a sid cl off.toNat g)
  | .stb cl d a sid off g => some (fmtMem 0x08 d a sid cl off.toNat g)
  | .sth cl d a sid off g => some (fmtMem 0x09 d a sid cl off.toNat g)
  | .stw cl d a sid off g => some (fmtMem 0x0A d a sid cl off.toNat g)
  | .std cl d a sid off g => some (fmtMem 0x0B d a sid cl off.toNat g)
  | .vld d a sid off g => some (fmtMem 0x0C d a sid .x off.toNat g)
  | .vst d a sid off g => some (fmtMem 0x0D d a sid .x off.toNat g)
  | .vlds d a sid s g => some (fmtMem 0x0E d a sid .x s.toNat g)
  | .vsts d a sid s g => some (fmtMem 0x0F d a sid .x s.toNat g)
  | .vgath d a sid i g => some (fmtMem 0x10 d a sid .x i.toNat g)
  | .vscat d a sid i g => some (fmtMem 0x11 d a sid .x i.toNat g)
  | .ldg wd cl d a sid off g => some (fmtMem 0x12 d a sid cl (widthCode wd * 32 + off.toNat) g)
  | .stg wd cl d a sid off g => some (fmtMem 0x13 d a sid cl (widthCode wd * 32 + off.toNat) g)
  | .vldg d a sid off g => some (fmtMem 0x14 d a sid .x off.toNat g)
  | .vstg d a sid off g => some (fmtMem 0x15 d a sid .x off.toNat g)
  | .ldacq cl d a sid off g => some (fmtMem 0x16 d a sid cl off.toNat g)
  | .strel cl d a sid off g => some (fmtMem 0x17 d a sid cl off.toNat g)
  | .atom op acq rel wide cl d a sid g =>
    some (fmtMem 0x18 d a sid cl (aopCode op * 8 + rel.toNat * 4 + acq.toNat * 2 + wide.toNat) g)
  | .vatom op d a sid g => some (fmtMem 0x19 d a sid .x (aopCode op * 8) g)
  | .fenceJoin m g => some (0x1A * 2 ^ 26 + m.toNat * 2 ^ 10 + guardBits g)
  | .fenceLoop m g => some (0x1A * 2 ^ 26 + m.toNat * 2 ^ 10 + 2 ^ 8 + guardBits g)
  | .fenceFull g => some (0x1A * 2 ^ 26 + 2 * 2 ^ 8 + guardBits g)
  | .tld d a sid g => some (fmtMem 0x1B d a sid .x 0 g)
  | .tst d a sid g => some (fmtMem 0x1C d a sid .x 0 g)
  | .br off g => some (fmtBr 0x01 off g)
  | .call off g => some (fmtBr 0x02 off g)
  | .ret a g => some (fmtR 0x03 0 a 0 0 g)
  | .brx a g => some (fmtR 0x04 0 a 0 0 g)
  | .wait imm g => some (fmtU 0x06 0 imm.toNat g)
  | .waitt pd a g => some (fmtR 0x07 (reg3 pd) a 0 0 g)
  | .waita a b g => some (fmtR 0x08 0 a b 0 g)
  | .waitb a b g => some (fmtR 0x09 0 a b 0 g)
  | .waitmb mb a g => some (fmtI 0x0A 0 a (mb.setWidth 12) g)
  | .waitk m g => some (fmtU 0x0B 0 (m.toNat * 2) g)
  | .arrive a g => some (fmtR 0x0C 0 a 0 0 g)
  | .plog o d a b g => some (fmtR 0x0D (reg3 d) (reg3 a) (reg3 b) (logCode o) g)
  | .mlog o d a b g => some (fmtR 0x0E (reg3 d) (reg3 a) (reg3 b) (logCode o) g)
  | .rdc d c g => some (fmtI 0x10 d 0 c g)
  | .wrc c a g => some (fmtI 0x11 0 a c g)
  | .trap code g => some (fmtU 0x12 0 code.toNat g)
  | .eret g => some (fmtR 0x13 0 0 0 0 g)
  | .exit g => some (fmtR 0x14 0 0 0 0 g)
  | .mark a t g => some (fmtR 0x15 0 a 0 t.toNat g)
  | .time d g => some (fmtR 0x16 d 0 0 0 g)
  | .seqadd a b g => some (fmtR 0x17 0 a b 0 g)
  | .seqwait pd a b g => some (fmtR 0x18 (reg3 pd) a b 0 g)
  | .gbar g => some (fmtR 0x19 0 0 0 0 g)
  | .mxldb m a k => some (fmtEn 0x01 m.toNat a 0 k)
  | .mxrun s a b k => some (fmtEn 0x02 s.toNat a b k)
  | .mxrd d a b k => some (fmtEn 0x03 d.toNat a b k)
  | .mxflg d a k => some (fmtEn 0x04 d.toNat a 0 k)
  | .mxclr s k => some (fmtEn 0x05 s.toNat 0 0 k)
  | .cpy a k => some (fmtEn 0x06 0 a 0 k)
  | .send a b k => some (fmtEn 0x07 0 a b k)
  | .snld a k => some (fmtEn 0x08 0 a 0 k)
  | .spawn a k => some (fmtEn 0x09 0 a 0 k)
  | .wmset ch a b k => some (fmtEn 0x0A ch.toNat a b k)
  | _ => none

/-- The position and word of a syllable. -/
def encode (i : Instr) : Option (Pos × Nat) :=
  match posOf i, encodeWord i with
  | some p, some w => some (p, w)
  | _, _ => none

/-! ### The table's words -/

/-- The positions in the order `decodeTableWord` tries them: the maps of X, VA, VB, L, C and E reuse OP numbers, and the
table does not give a word's position (log entry 3). -/
def tablePositions : List Pos := [.x, .va, .vb, .e, .c, .l]

/-- The first position whose map gives a word a meaning. -/
def firstMeaning (ps : List Pos) (w : Nat) : Option (Pos × Instr) :=
  match ps with
  | [] => none
  | p :: ps =>
    match decode p w with
    | .ok i => some (p, i)
    | .error _ => firstMeaning ps w

/-- The instruction of a 32-bit word of the opcode table (log entry 3). -/
def decodeTableWord (nbits w : Nat) : Option Instr :=
  if nbits = 32 then (firstMeaning tablePositions (w % 2 ^ 32)).map (fun pi => pi.2) else none

end Sys2Proof
end

