-- ==== Sys2Proof/Config.lean ====
section
/-! DEFINITION. What one package fixes and the manual leaves open: opaque constants without a body (free values, log
entries 5 and 8), and the manual's own capacities and latencies. -/

namespace Sys2Proof.Config

/-- Free choice number n: does a transition of unstated latency happen in this clock? (R190, R240, log entry 5) -/
opaque happens : Nat → Bool

/-- Free choice number n among the candidates an unarchitected order leaves (R175, R228, R230; log entry 5). -/
opaque pick : Nat → Nat

/-- Free 16-bit delay field number n of an acknowledgement or reply (R240; log entry 5). -/
opaque delayField : Nat → BitVec 16

/-- The delay in clocks of bounded latency number n; users reduce it below the manual's bound (R32, R281; log entry 5). -/
opaque delay : Nat → Nat

/-- The 14 strap pins that give the package id (R315; log entry 6). -/
opaque straps : BitVec 14

/-- The device serial number's SHA-384 digest, SERDIG (R285; log entry 7). -/
opaque serialDigest : BitVec 384

/-- SPDM measurement block n, 1 to 4 (R308; log entry 7). -/
opaque measurement : Nat → List Byte

/-- SHA-384, named by the manual and defined outside it (R286, R303; log entry 7). -/
opaque sha384 : List Byte → BitVec 384

/-- The ECDSA signature of a digest by the device identity key, r then s (R286; log entry 7). -/
opaque sign : BitVec 384 → BitVec 768

/-- Byte i of sealed block b, its tag included, of eviction draw n: layout and tag are keyed by the package identity (R263;
log entry 7). -/
opaque sealedByte : Nat → Nat → Nat → BitVec 8

/-- The 16 bits of an eviction image for a block exponent and its B-pack loss flag, whose layout no rule states (R263;
log entry 7). -/
opaque ebWord : Int → Bool → BitVec 16

/-- The block exponent and the flag that other 16 bits stand for, where a host changed an image (R263, R264; log entry 7). -/
opaque ebValue : BitVec 16 → Int × Bool

/-- A random pseudonym, draw n (R288; log entry 7). -/
opaque pseudonym : Nat → BitVec 13

/-- TRAPC.SYL of a reported cause, of which R88 states none but that of TRAP (log entry 8). -/
opaque reportSyl : BitVec 16 → Nat

/-- The core that a VCN of a region of another package names, by package, RID and VCN, which this package does not know (R239, R319;
log entry 17). -/
opaque peerCore : BitVec 14 → BitVec 16 → BitVec 16 → Nat

/-- Does read-cache line prefetch, number n, happen? (R216; log entry 5) -/
opaque prefetch : Nat → Bool

/-- Does thread number n, in clock m, the first of its turns after a store to its own code, fetch what it stored? (R180; log entry 62) -/
opaque seesStore : Nat → Nat → Bool

/-- Does the Storeroom hold the line at a byte key when the fetch of a task's first bundle from a clock on asks for it? No rule says which
lines it keeps (R44; log entry 5). -/
opaque inStoreroom : Nat → Nat → Bool

/-- The SECDED syndrome or parity row bits of error n, which the code that no rule gives decides (R267; log entry 25). -/
opaque syndrome : Nat → BitVec 16

/-- TRAPV of a device-fatal fault that no rule of the model computes, draw n (R250; log entry 8). -/
opaque fatalValue : Nat → Word

/-- Clocks of domain-freeze latency on one die and across dies (R60). -/
def lfOneDie : Nat := 16
/-- Clocks of domain-freeze latency across dies (R60). -/
def lfManyDies : Nat := 32

/-- Limits the manual states: miss registers per core (R84), order-queue entries per slot (R210), copy tags (R224),
window places per route (R239), inbox entries (R241), Attic heap and landing buffer (R242). -/
def missRegs : Nat := 16
/-- Order-queue entries per slot (R210). -/
def orderQueue : Nat := 32
/-- Copy-engine tags per core (R224). -/
def copyTags : Nat := 32
/-- Window places per route (R239). -/
def window : Nat := 16
/-- Inbox entries per core (R241). -/
def inbox : Nat := 64
/-- Attic heap entries (R242). -/
def atticHeap : Nat := 63
/-- Landing-buffer entries (R242). -/
def landingBuffer : Nat := 4
/-- Dispatch-unit records per die (R34). -/
def dispatchRecords : Nat := 16384
/-- In-flight fixed-latency results per thread (R253). -/
def inFlight : Nat := 16
/-- Gang engine queue entries per core (R154). -/
def engineQueue : Nat := 4
/-- Clocks that a SPAWN's record takes to its own die at most: with the 32 of the fetch, the slot's turn and the clocks between,
96 from the SPAWN to the first bundle (R44, R45). -/
def spawnWay : Nat := 40
/-- 100 microseconds in GTIME units (R244). -/
def absentHold : Nat := 1600000

end Sys2Proof.Config
end

