-- ==== Sys2Proof/Machine/State.lean ====
section
/-! DEFINITION. The state of one package as plain data: threads, cores, dies, package, and the model's own bookkeeping
(issue context and schedule). `State.reset` is the package right after reset. -/

namespace Sys2Proof.Machine

/-- Reasons the machine stops with a fault. -/
inductive Fault
  /-- Raised by `step` when the schedule names a core number of 3,072 or more, which R12 says does not exist. Safe. -/
  | noSuchCore (n : Nat)
  deriving DecidableEq, Repr

/-- Reasons a step has no meaning. -/
inductive Refusal
  /-- Raised by an arm of `exec` for an instruction without a meaning yet. Safe. -/
  | notModelled (mnemonic : String)
  deriving DecidableEq, Repr

/-! ### Threads -/

/-- The state of a dependence token (R82); `dropped` is a done token whose instruction was abandoned (R229). -/
inductive Tok | free | pending | done | dropped
  deriving DecidableEq, Repr

/-- A fixed-latency result in flight (R52, R252): the bits `mask` of `val` land after `rem` further turns. -/
structure Flight where
  id : Nat
  dest : Dest
  val : Vec
  mask : Vec
  rem : Nat
  flags : BitVec 5
  deriving DecidableEq, Repr

/-- One lane of a bank pass still to be made (R422): a store of `data`, or a load into lane `lane` of flight `flight`. -/
structure PassLane where
  key : Nat
  store : Bool
  aop : Option Aop
  data : BitVec 32
  lane : Nat
  flight : Nat
  deriving DecidableEq, Repr

/-- An unfinished wait with the operands read at issue (R253, R435); `eret` is that of an issued ERET, with its syllable, for the results of
its own bundle (R343). -/
inductive Wait
  | none
  | waitt (pd : BitVec 3) (x : Word) (past : Bool)
  | waita (a b : Word)
  | waitb (a b : Word)
  | waitmb (mb : BitVec 6) (n : BitVec 32)
  | waitk (mask : BitVec 7)
  | seqwait (pd : BitVec 3) (i t : Word)
  | gbar
  | eret (word : Word)
  deriving DecidableEq, Repr

/-- A cause held for the next bundle that would issue (R251 group 4); `xlate` is that of a page request that failed (R192), and
`handlerTrap` a TRAP that a handler issued, which is region-fatal (R406, R250). -/
inductive Report
  | xlate (addr : Word)
  | trap (code : Word)
  | handlerTrap (code : Word)
  | soft (addr : Word)
  | engine (cause : BitVec 16) (value : Word)
  | watch (unit : Nat)
  | preempt (code : BitVec 16)
  deriving DecidableEq, Repr

/-- The scalar, vector, predicate and mask registers of a thread (R76, R78, R79). -/
structure Regs where
  x : Vector Word 32
  y : Vector Word 32
  v : Vector Vec 24
  p : Vector Bool 8
  m : Vector Word 8
  deriving DecidableEq, Repr

/-- What a packet carries (R184, R228, R231, R237, R249; `sched` stands for a mode-3 message until its delivery, R248). Addresses are local offsets at the destination core. A store's
bytes come with the bits of each that it writes; a message says whether it came from QNO (R238). -/
inductive Cargo
  | store (bytes : List (Nat × Byte × Byte))
  | atomic (op : Aop) (wide : Bool) (off : Nat) (opnd swap : Word) (miss : Option Nat)
  | vatom (op : Aop) (lanes : List (Nat × BitVec 32))
  | load (off n : Nat) (signed : Bool) (miss : Nat)
  | arrive (off : Nat)
  | put (off : Nat) (data : Vec) (tag : Option (BitVec 6))
  | msg (drid dvcn : BitVec 16) (dslot : BitVec 3) (data : Vec) (word : Word) (qno : Bool)
  | chunk (tag : Nat) (bytes : List (Nat × Byte × Byte)) (wch : Option (BitVec 3)) (last : Bool) (bar : Nat) (mb : Option (BitVec 6))
  | record (die : BitVec 2) (trec : Vec)
  | sched
  deriving DecidableEq, Repr

/-- What an order-queue entry does when it is performed (R210). Memory keys name bytes of `State.mem`; `va` is the address
that a trap about the entry names. `erelease` is the implicit release of an E instruction (R209), `fence` a FENCE, `atomL` a deferred atomic of class L (R299). -/
inductive QKind
  | storeM (bytes : List (Nat × Byte × Byte)) (va : Word)
  | loadM (miss : Nat)
  | atomM (op : Aop) (wide : Bool) (key : Nat) (opnd swap : Word) (miss : Option Nat) (va : Word)
  | vatomM (op : Aop) (lanes : List (Nat × BitVec 32)) (vas : List Word)
  | seqadd (key : Option Nat) (va amount : Word)
  | remote (c : Cargo) (dst : Nat) (peer : Option (BitVec 12)) (va : Word)
  | fence (full : Bool) (mask : BitVec 16)
  | erelease
  | atomL
  deriving DecidableEq, Repr

/-- One access, release or fence of a thread's order queue, oldest first (R206 to R210): its stream, or
16 for a C syllable, which names none; `sent` once its packet departed, `perf` once performed, which keeps only a load until
it lands. -/
structure QEntry where
  id : Nat
  sid : Nat
  rel : Bool
  acq : Bool
  loop : Bool
  sent : Bool
  perf : Bool
  kind : QKind
  deriving DecidableEq, Repr

/-- A reserved entry of a queue port; `none` until its result lands (R81). -/
structure PortSlot where
  id : Nat
  tid : Nat
  val : Option Vec
  deriving DecidableEq, Repr

/-- What a thread runs: its region, record fields and place in a gang, and the record with its spawning core, by which a
saved thread is placed again (R23 to R29, R40). -/
structure Task where
  rid : BitVec 16
  seq : Word
  entry : Word
  c0 : BitVec 16
  c1 : BitVec 16
  c2 : BitVec 16
  tflags : BitVec 16
  arg : Word
  vcn : BitVec 16
  member : Nat
  size : Nat
  base : Nat
  trec : Vec
  spawner : Option Nat
  deriving DecidableEq, Repr

/-- The control registers that belong to a thread (R56, R74, R87, R88). -/
structure Ctl where
  pc : Word
  ths : Word
  trapc : Word
  trappc : Word
  trapv : Word
  trapif : Word
  stallc : Word
  lsel : BitVec 4
  deriving DecidableEq, Repr

/-- What a thread has in the pipelines and what delays its next bundle (R52 to R58, R83, R252, R254). `lifted` are the results
that a trap wrote to the in-flight table, with the values written there (R53, R252; log entry 13); `watch` is the key at which a
wait is registered with a home slice and, once a change that ends it was made there, that clock and whether the counter was
poisoned (R32, R387, R437); `oldCode` are the 32 bytes at the PC as they stood before the slot's last turn, where the thread changed
them in it (R180); `heldStall` and `heldPasses` are the stalled turns and the bank passes that a
freeze left undone, while the thread's handler runs (R62, R63); `owed` are the turns that an ERET's own bundle still delays the resumed
one, before which nothing resumed counts (R57, R258). -/
structure Pipe where
  flights : List Flight
  pend : List Dest
  waitLeft : Nat
  stallLeft : Nat
  passes : List (List PassLane)
  wait : Wait
  fetchAt : Nat
  lifted : List Flight
  watch : Option (Nat × Option (Nat × Bool))
  oldCode : Option (List Byte)
  heldStall : Nat
  heldPasses : List (List PassLane)
  owed : Nat
  deriving DecidableEq, Repr

/-- Marks of a thread's life: first issue, completed GBAR, a gang barrier left for a handler in a freeze, hold on a page request, debug stop, fatal halt, the counters of
sampled records and deferred atomics, results that wait for the first issue after a restored context (of a thread in an evicted image, that its context is saved),
the address whose translation fault holds the thread or has its context saved, 0 for an eviction, and the slot that an ended
thread left with the clock of its EXIT (R42, R43, R192, R259,
R263, R265, R274, R299). -/
structure Life where
  started : Bool
  gbarDone : Bool
  atBar : Bool
  faulted : Option Nat
  stopReq : Bool
  stopped : Bool
  halted : Bool
  branches : Nat
  misses : Nat
  atoms : Nat
  resuming : Bool
  saving : Option Nat
  left : Nat
  leftAt : Nat
  deriving DecidableEq, Repr

/-- One thread (R23, R93). -/
structure Thread where
  tid : Nat
  task : Task
  regs : Regs
  ctl : Ctl
  pipe : Pipe
  life : Life
  tok : Vector Tok 8
  orderQ : List QEntry
  qno : List PortSlot
  qev : List PortSlot
  reports : List Report
  deriving DecidableEq, Repr

/-! ### Cores -/

/-- One accumulator element (R155). -/
structure Elem where
  s : Int
  f : Int
  t : Int
  empty : Bool
  lsa : Bool
  lsp : Bool
  ovf : Bool
  nan : Bool
  deriving DecidableEq, Repr

/-- The issuer of an E instruction and what it waits for before its memory effects begin: the consumed tokens still
pending and, on stream `dstr`, the thread's accesses with identities below `before`; `bad` once it consumed the token of
an abandoned instruction; `asked` names its page request outstanding; `word` is its syllable, 0 for another unit's (R82, R194, R218,
R229, R250). -/
structure EHead where
  id : Nat
  tid : Nat
  rid : BitVec 16
  slot : Nat
  pc : Word
  kp : BitVec 3
  waits : List Nat
  bad : Bool
  dstr : Nat
  before : Nat
  timed : Bool
  user : Bool
  asked : Option Nat
  word : Word
  deriving DecidableEq, Repr

/-- What a gang-engine queue entry does (R154); a configuration address of `none` selects the default (R151). -/
inductive EngKind
  | mxldb (mask : BitVec 4) (addr : Word)
  | mxrun (set : Bool) (n : Nat) (cfg : Option Word)
  | mxclr (set : Bool)
  deriving DecidableEq, Repr

/-- An entry of the gang engine queue; `left` counts the clocks of a load or clear under way (R148, R154, R162). -/
structure EngOp where
  head : EHead
  left : Option Nat
  kind : EngKind
  deriving DecidableEq, Repr

/-- The step configuration of an MXRUN (R151). -/
structure MxConf where
  asrc : Bool
  out : Bool
  afmt : Nat
  osh : Int
  tid : Nat
  row0 : Nat
  rstep : Nat
  k0 : Nat
  deriving DecidableEq, Repr

/-- A row of A packed for its step: integers, block exponents, A-pack loss and non-finite elements (R142, R143). -/
structure RowPack where
  ints : List Int
  ea : List Int
  loss : Bool
  nan : Bool
  deriving DecidableEq, Repr

/-- A step under way: its number, its age in clocks since its first bit-plane clock, and the rows packed (R150, R153). -/
structure StepRun where
  j : Nat
  age : Nat
  rows : List RowPack
  deriving DecidableEq, Repr

/-- The gang operation running on a core (R151 to R153, R160, R165): gang base and size, MXCFG as it stood at the start,
the tensor entry of A with the local offsets of its tiles, clocks left before the first step, steps begun and completed,
the QMA chunks of the next row, the hold of R165, and the clocks left of an emission copy. -/
structure MxOp where
  head : EHead
  set : Bool
  n : Nat
  conf : MxConf
  mxcfg : Word
  base : Nat
  size : Nat
  entry : Vec
  tiles : List (Nat × Nat)
  pre : Nat
  begun : Nat
  done : Nat
  steps : List StepRun
  buf : List Vec
  held : Bool
  trapped : Bool
  tail : Option Nat
  deriving DecidableEq, Repr

/-- A snapshot read under way: the clock by which it ends, and the result once read (R161). -/
structure RdOp where
  head : EHead
  flags : Bool
  d : Reg
  b : BitVec 4
  sel : Word
  due : Nat
  got : Option (Vec × Word)
  deriving DecidableEq, Repr

/-- The matrix store and accumulators of a core (R147, R149, R155): elements by 256 × row + column, EMPTY when unlisted;
the 512 weights and 16 block exponents of each column, 0 when unlisted; the blocks, as 16 × column + block, with B-pack
loss; the columns with a non-finite element; and the source of each macro's last load. -/
structure Matrix where
  acc0 : List (Nat × Elem)
  acc1 : List (Nat × Elem)
  scnt0 : BitVec 32
  scnt1 : BitVec 32
  cim : List (Nat × List Int)
  eb : List (Nat × List Int)
  bloss : List Nat
  bnan : List Nat
  src : List (Nat × (Nat × Nat))
  deriving DecidableEq, Repr

/-- The gang engine of a core (R89, R154, R160, R161); `emitBy` is the region whose MXRUN last filled the emission buffer. -/
structure Engine where
  mxcfg : Word
  mxdone : BitVec 16
  mxremn : BitVec 16
  queue : List EngOp
  run : Option MxOp
  qma : List PortSlot
  qmr : List Vec
  emit : List Vec
  emitBy : BitVec 16
  rds : List RdOp
  deriving DecidableEq, Repr

/-- A message of an inbox or heap: destination slot, source word and payload (R238, R241). -/
structure Msg where
  slot : BitVec 3
  svcn : BitVec 16
  srid : BitVec 16
  data : Vec
  deriving DecidableEq, Repr

/-- A watermark channel and its filled bytes (R92, R235). -/
structure Wmk where
  armed : Bool
  base : Nat
  limit : Nat
  mark : Nat
  filled : List Nat
  deriving DecidableEq, Repr

/-- What an E instruction outside the gang engine does (R224 to R249): a copy with its tag and the chunks begun, a WMSET, a SEND or SPAWN not yet departed, or an SNLD whose table is not yet read. -/
inductive JobKind
  | copy (tag : Nat) (cmd : Vec) (next : Nat)
  | wmset (ch : BitVec 3) (base limit : Nat)
  | send (data : Vec) (ctl : Word)
  | spawn (die : BitVec 2) (trec : Vec)
  | snld (off : Nat) (word : Word)
  deriving DecidableEq, Repr

/-- An E instruction outside the gang engine; a core's stand in issue order. -/
structure Job where
  head : EHead
  kind : JobKind
  deriving DecidableEq, Repr

/-- A load outstanding (R83, R84): the register it lands in, whether it holds a miss register, whether its landing
completes an acquire, the turns to a landing in a counted turn, what it reads (n bytes at `key` under `mask`, the bits
`base` already read, a K4 scale byte), the latency accumulators that its replies add to, and once read its data and the
poisoned line it met. -/
structure Miss where
  id : Nat
  tid : Nat
  dest : Option Dest
  holds : Bool
  acq : Bool
  turns : Option Nat
  key : Nat
  n : Nat
  signed : Bool
  mask : Vec
  base : Vec
  scale : Option Nat
  lats : List Nat
  data : Option Vec
  soft : Option Nat
  deriving DecidableEq, Repr

/-- A cached translation (R187, R191). -/
structure TlbEntry where
  t : Xlate
  atomic : Bool
  deriving DecidableEq, Repr

/-- A line of the read cache or the bundle buffer: physical key and bytes (R178, R189). -/
structure Line where
  key : Nat
  data : List Byte
  deriving DecidableEq, Repr

/-- A held copy of a tensor entry and its tile table; a table of more than 64 entries is not held (R202). -/
structure Held where
  tid : Nat
  rid : BitVec 16
  entry : Vec
  tiles : Option (List Word)
  pinned : Bool
  deriving DecidableEq, Repr

/-- The scheduled-network router of a core: its domain's root, its table, and tables read but not yet in force (R245). -/
structure Router where
  dom : Option (BitVec 16)
  table : List Word
  next : List (List Word × EHead)
  deriving DecidableEq, Repr

/-- A Cellar: its ring of records, each with the GTIME it stands for, its staging queue and freeze state (R268 to R271, R281).
`incoming` are the records of the present clock, each with its place in the order of R270. -/
structure Cellar where
  ring : List (Nat × (Nat × BitVec 128))
  wptr : Nat
  incoming : List (Nat × (Nat × BitVec 128))
  staging : List (Nat × BitVec 128)
  last : Option Nat
  frozen : Bool
  foreign : Nat
  lost : BitVec 15
  hlost : Bool
  deriving DecidableEq, Repr

/-- CELLCTL's writable fields and the trigger registers (R275, R277). For R278: after a stop, its clock and the optional
records still owed; the units fired in the clock of the last firing, and those of them
that an event of a thread fired (`acted`, R279); and the optional records of the last clock that
RUN kept out, which a start of that clock lets in. -/
structure Recorder where
  ctl : Word
  tmatch : Vector Word 4
  tsel : Word
  tcnt : Word
  fired : BitVec 4
  owed : Option (Nat × Nat)
  lastFire : Nat × BitVec 4
  acted : BitVec 4
  heldBack : List (Nat × Nat × BitVec 128)
  deriving DecidableEq, Repr

/-- The message, mailbox, copy and window state of a core (R91, R224, R239 to R242); a message in the landing buffer stands
with its packet's identity, which is acknowledged once it enters the heap; one in the heap with its place among the 63 of the
context tail, and `spills` counts those that entered it; `replay` is the clock from which one of them could enter the inbox
(R242). `served` is the tag whose chunk the copy engine moved last, and `movedAt` its clock (R224). `landed` lists the engine updates of
control registers in a clock: clock, register number, amount added, and the value before (R86, R382). -/
structure CoreNet where
  inbox : List Msg
  landing : List (Nat × Msg)
  heap : List (Nat × Msg)
  spills : Nat
  replay : Option Nat
  mbc : Vector (BitVec 32) 64
  wmk : Vector Wmk 8
  jobs : List Job
  served : Nat
  movedAt : Nat
  misses : List Miss
  latacc : Vector Word 64
  landed : List (Nat × Nat × Nat × Word)
  router : Router
  deriving DecidableEq, Repr

/-- Translations and cached lines of a core (R178, R187, R189, R202). -/
structure Caches where
  tlb : List TlbEntry
  rc : List Line
  bb : List Line
  held : List Held
  deriving DecidableEq, Repr

/-- One core (R85). `ended` are threads whose task has ended while accesses of their order queues, or loads, are still to
be performed (R344). `owner` is the region of the last task placed; `blocked` while the Vault copies its Cellar (R283); `dirty` once a region
of the core has ended, until the next start clears its engine (R168). -/
structure Core where
  slots : Vector (Option Thread) 8
  ended : List Thread
  mx : Matrix
  eng : Engine
  net : CoreNet
  cache : Caches
  cellar : Cellar
  rcd : Recorder
  owner : Option (BitVec 16)
  blocked : Bool
  dirty : Bool
  deriving DecidableEq, Repr

/-! ### Dies -/

/-- A record in a dispatch unit (R34 to R41): a fresh task, or a saved thread of R192; since when a gang has stood first,
and whether it is pressing; the page request it waits for, with the counter whose page that is, whether its evaluation waits for a
translation, and the keys of the counters at which it is registered with the watchers (R31, R32); and the
frame of the device's own area that a saved context stands in (R192, R255). -/
structure Entry where
  id : Nat
  rid : BitVec 16
  trec : Vec
  seq : Word
  spawner : Option Nat
  ready : Option Nat
  order : Nat
  first : Option Nat
  press : Bool
  saved : Option Thread
  waiting : Option Nat
  counter : Word
  asking : Bool
  named : List Nat
  frame : Option Nat
  deriving DecidableEq, Repr

/-- A Ringmaster entry's bytes with the armed region and next due index (R71 to R73). -/
structure RmEntry where
  start : Word
  period : Word
  trec : Word
  vcn0 : BitVec 16
  vcnn : BitVec 16
  ctl : Byte
  stat : Byte
  rid : BitVec 16
  n : Nat
  deriving DecidableEq, Repr

/-- An error-log entry (R267). -/
structure ErrEntry where
  time : Word
  addr : Word
  info : BitVec 128
  deriving DecidableEq, Repr

/-- A page request of a die, in the order asked: the page, the task whose fault it is, if any, and whether it was sent
(R193). -/
structure PageReq where
  id : Nat
  pasid : BitVec 20
  page : Nat
  task : Option (BitVec 16 × Word)
  sent : Bool
  deriving DecidableEq, Repr

/-- One die; `placed` is the clock of its last placement (R34, R38, R71, R187, R193, R198, R267, R268, R297, R321). -/
structure Die where
  disp : List Entry
  placed : Option Nat
  rm : List (Nat × RmEntry)
  tlb : List TlbEntry
  walks : List (BitVec 20 × Nat)
  reqs : List PageReq
  cellar : Cellar
  errlog : List (Nat × ErrEntry)
  erridx : Byte
  ttbase : Word
  agemon : Word
  deriving DecidableEq, Repr

/-! ### Package -/

/-- Where a region stands (R261 to R263). -/
inductive Phase | live | parking | parked | evicting | evicted | restoring | ending
  deriving DecidableEq, Repr

/-- A live region with its resolved fields (R16 to R22), `fn` the function through which its tree was started and `via` the one of
its own start (R254, R305, R314), `ownPool` where it has a counter pool of its own; the next position of each deterministic list and the task that it
runs (R297); whether a kernel boundary lasts, its GTIME, and whether its page digests are being formed (R295, R303); the fatal fault that ends it with its TRAPV, at once or after the wave (R250, R265, R282); and
of a region switched out, the cores that others took, and the save area, seal draws and images by VCN (R262 to R264). -/
structure Region where
  rid : BitVec 16
  parent : BitVec 16
  depth : Nat
  rcb : Nat
  rcbVa : Nat
  pasid : BitVec 20
  fn : Fn
  via : Fn
  tenant : BitVec 16
  prio : Nat
  timed : Bool
  det : Bool
  rclass : BitVec 2
  fdr : Bool
  gpart : BitVec 3
  tslots : BitVec 7
  own : Bool
  cores : List Nat
  rows : List Nat
  ncores : Nat
  grows : Nat
  policy : Nat
  quota : Option Nat
  aging : Nat
  tfirst : Nat
  tcount : Nat
  pool : Word
  pooln : Nat
  ownPool : Bool
  exitc : Nat
  hvec : Word
  seqn : Word
  tag : BitVec 13
  started : Nat
  phase : Phase
  manifest : Option Nat
  detNext : List (Nat × Nat)
  detRun : List (Nat × Nat)
  atRest : Bool
  restAt : Nat
  digest : Bool
  cause : Option (BitVec 16)
  causev : Word
  endNow : Bool
  closing : Option Nat
  taken : List Nat
  area : Nat
  seals : List (Nat × Nat)
  evicted : List (Nat × Core)
  deriving DecidableEq, Repr

/-- A timed domain (R60 to R64). -/
structure Domain where
  root : BitVec 16
  ticks : Nat
  first : Nat
  lf : Nat
  frozen : Bool
  freezeAt : Option Nat
  resumeAt : Option Nat
  since : Nat
  cause : BitVec 2
  deriving DecidableEq, Repr

/-- A packet of the window network (R239): in flight, landed and waiting for its acknowledgement, or held until a GTIME
for a region that was switched out, if any (R244). `val` is the control word or address that a report about it names,
`entry` the order-queue entry that it performs, `link` the link of its route to another package (none: held for want of one),
`svcn` its sender's VCN, `pkg` its sender's package where that is another one (R238, R319), and `due` the clock by which it
arrives where a rule bounds its way (R45). -/
structure Packet where
  id : Nat
  src : Nat
  tenant : BitVec 16
  dst : Nat
  peer : Option (BitVec 12)
  link : Option Nat
  svcn : BitVec 16
  pkg : Option (BitVec 14)
  strm : Nat
  val : Word
  head : EHead
  entry : Option Nat
  landed : Bool
  held : Option Nat
  heldFor : Option (BitVec 16)
  due : Option Nat
  cargo : Cargo
  deriving DecidableEq, Repr

/-- A packet of the scheduled network (R247): its domain's root, the router that it reaches in tick `tick` by input
`from'`, its destination, and whether it was delivered and waits to be readable. -/
structure SnPacket where
  dom : BitVec 16
  at' : Nat
  from' : BitVec 3
  dst : Nat
  dslot : BitVec 3
  head : EHead
  tick : Nat
  out : Bool
  data : Vec
  deriving DecidableEq, Repr

/-- Registers each function has for itself, and of a start under way the address written, its page request and what its failure
gives: a status with a RID, 0x40 for a manifest's request block, 0x01 for a tile table, the PASID of the request, and the PASIDs
under which its RCB could not be had (R20, R21, R202, R254, R261, R305, R314). -/
structure FnRegs where
  regstat : Word
  hvec : Word
  evbase : Word
  evidx : Word
  regopst : Word
  thrdrop : Bool
  manstat : Word
  manreq : Option Word
  startWait : Option Word
  startReq : Option Nat
  startFail : Nat × (BitVec 16 × BitVec 20)
  startTried : List (BitVec 20)
  deriving DecidableEq, Repr

/-- BAR 0 of the physical function (R267, R312, R313, R316, R319, R320, R322). `injected` are the bits of the target word that
an armed error injection holds inverted, once a write took it. -/
structure Bar where
  stage : Nat
  failst : BitVec 4
  fatal : Bool
  ptplock : Bool
  ready : Bool
  hostcap : BitVec 2
  tenbind : Vector Word 64
  vfbind : Vector Word 16
  pwrlimit : BitVec 16
  pwrstat : Word
  dbgstat : Word
  dbgpc : Word
  dbgtick : Word
  dbgwho : Option Nat
  errinj : Word
  injected : Option Word
  peers : List (Nat × Word)
  fns : List (Fn × FnRegs)
  deriving DecidableEq, Repr

/-- A link's control and status, whether it trains, and whether that is a retraining (R317, R318). -/
structure Link where
  ctl : Byte
  stat : Word
  training : Bool
  again : Bool
  deriving DecidableEq, Repr

/-- Power islands, by number (R66, R320): clocks below 600 MHz with their phase, the pulses still to be swallowed with the
island clock from which, the pulses lost since reset, the islands without a pulse in this clock, whether the temperature
forces throttling, and the clocks of the last 1 ms in which an island had no pulse, each with the pulses that were not
there and those that were swallowed. -/
structure Power where
  mhz : List (Nat × (Nat × Nat))
  swallow : List (Nat × (Nat × Nat))
  lost : List (Nat × Nat)
  idle : List Nat
  thermal : Bool
  recent : List (Nat × (Nat × Nat))
  deriving DecidableEq, Repr

/-- A tag's assignment to a region (R272). -/
structure Assign where
  tag : BitVec 13
  rid : BitVec 16
  tenant : BitVec 16
  rclass : BitVec 2
  start : Nat
  stop : Option Nat
  deriving DecidableEq, Repr

/-- A capture (R284): the Cellars that its wave has still to reach, those that it reached and the Vault has still to copy, the
sections copied, with whether each was already frozen, and what the capsule header needs. -/
structure Capture where
  id : Nat
  time : Nat
  cause : BitVec 16
  trapv : Word
  cls : BitVec 2
  locked : Bool
  origin : BitVec 15
  path : List (BitVec 16)
  tenants : List (BitVec 16)
  manid : Nat
  wanted : List Place
  reached : List Place
  sections : List (Place × Bool × Cellar)
  tags : List Assign
  hasFull : Bool
  rid : Option (BitVec 16)
  deriving DecidableEq, Repr

/-- A function's Vault mailbox: its registers, and whether a command is under way (R291). -/
structure Mailbox where
  cmd : BitVec 32
  vid : Word
  voff : BitVec 32
  stat : Byte
  busy : Bool
  len : Nat
  win : List Byte
  deriving DecidableEq, Repr

/-- A kept view: the function, VID, FORM, VIEW and viewer for which it was formed (R286, R290). -/
structure View where
  fn : Fn
  vid : Word
  form : Byte
  view : Byte
  viewer : Option (BitVec 16)
  bytes : List Byte
  deriving DecidableEq, Repr

/-- The Vault (R283 to R291): captures kept in MRAM, newest first, tag assignments, kept views and mailboxes, and
each function's signed copy of a manifest (R307). -/
structure Vault where
  nextId : Nat
  kept : List Capture
  taking : List Capture
  assigns : List Assign
  lastTag : BitVec 13
  views : List View
  pseud : List ((Nat × BitVec 16 × BitVec 13 × Nat) × BitVec 13)
  boxes : List (Fn × Mailbox)
  manviews : List (Fn × (Nat × List Byte))
  deriving DecidableEq, Repr

/-- A run manifest (R303 to R307). -/
structure Manifest where
  id : Nat
  rid : BitVec 16
  tenant : BitVec 16
  flags : Byte
  maxb : Nat
  tstart : Nat
  cfg : BitVec 384
  ranges : List (Byte × BitVec 32 × Word)
  recs : List (List Byte)
  bounds : Nat
  chain : BitVec 384
  marks : List Nat
  closed : Bool
  deriving DecidableEq, Repr

/-- What leaves the package: packets to partners, the answers to theirs (none, or the cause of a refusal), interrupts and host
messages (R186, R244, R248, R292, R308, R314, R319). -/
inductive Output
  | toPeer (link : Nat) (drid dvcn : BitVec 16) (dslot : BitVec 3) (data : Vec)
  | forwarded (p : Packet)
  | answered (p : Packet) (refused : Option (BitVec 16))
  | msix (fn : Fn)
  | pageRequest (d : BitVec 2) (pasid : BitVec 20) (va : Nat)
  | translation (d : BitVec 2) (pasid : BitVec 20) (va : Nat)
  | invalidated (pasid : BitVec 20) (va : Nat)
  | reply (fn : Fn) (status : Byte) (data : List Byte)
  | read (data : Word)
  deriving DecidableEq, Repr

/-- Deferred deterministic atomics: the core of the location or, for a home slice, 3,072 plus its number; the clock of
arrival there; the sort key (L, q); and what each does (R299). -/
structure Deferred where
  loc : Nat
  arrived : Option Nat
  l : Nat
  q : Nat
  op : Aop
  wide : Bool
  key : Nat
  opnd : Word
  swap : Word
  core : Nat
  miss : Nat
  deriving DecidableEq, Repr

/-- A step of the device or the host as the schedule holds it: the rows of the opcode table without an encoding, under the
names of `Instr`, host accesses to the Vault mailbox and its SPDM form (R291, R292), and the packets that other packages send
(R319; log entry 17). A type of its own, because compiled Lean
builds no constructor beyond the 245th of one type. -/
inductive Event
  | regstart (fn : Fn) (val : Word)
  | park (fn : Fn) (val : Word)
  | parkDone (rid : BitVec 16)
  | resume (fn : Fn) (val : Word)
  | evict (fn : Fn) (val : Word)
  | evictDone (rid : BitVec 16)
  | restore (fn : Fn) (val : Word)
  | teardown (fn : Fn) (val : Word)
  | thrint (fn : Fn) (val : Word)
  | manreq (fn : Fn) (val : Word)
  | manifestRangeHash (rid : BitVec 16)
  | ttbaseWrite (d : BitVec 2) (val : Word)
  | tenbindWrite (i : BitVec 6) (val : Word)
  | peerTableWrite (i : BitVec 12) (val : Word)
  | ringmasterArm (d : BitVec 2) (e : BitVec 8) (ctl : Byte)
  | ringmasterDisarm (d : BitVec 2) (e : BitVec 8) (ctl : Byte)
  | ringmasterLaunch (d : BitVec 2) (e : BitVec 8)
  | retrain (k : BitVec 4) (val : Word)
  | linkEnable (k : BitVec 4) (val : Word)
  | linkDisable (k : BitVec 4) (val : Word)
  | linkErrorRetrain (k : BitVec 4)
  | linkTrainingDone (k : BitVec 4) (t : Training)
  | linkTrainTimeout (k : BitVec 4)
  | debugStop (val : Word)
  | debugStopDone (core slot : Nat)
  | debugRelease (val : Word)
  | errinj (val : Word)
  | registerWrite (fn : Fn) (off size : Nat) (val : Word)
  | list (fn : Fn) (voff : BitVec 32)
  | fetch (fn : Fn) (form view : Byte) (vid : Word) (voff : BitVec 32)
  | erase (fn : Fn)
  | manifestFetch (fn : Fn) (manid : Word) (off : BitVec 32)
  | atsInvalidate (pasid : BitVec 20) (va lg : Nat)
  | translationCompletion (d : BitVec 2) (core : Nat) (x : Xlate)
  | pageResponse (d : BitVec 2) (req : Nat) (ok : Bool)
  | hostAtomicop (off : Nat) (op : Aop) (wide : Bool) (opnd swap : Word)
  | hostBar2Access (write : Bool) (off size : Nat) (val : Word)
  | atomicopFailed (core slot : Nat) (id : Nat)
  | powerOn
  | warmReset
  | coldReset
  | bringupStageEnd (ok : Bool)
  | ptpLockTimeout
  | ptpLockChange (locked : Bool)
  | powerControl (watts : BitVec 16) (temp thr : Byte) (island : BitVec 6) (mhz : BitVec 12) (swallow : Bool)
  | thermalThrottle (temp : Byte)
  | ageingUpdate (d : BitVec 2) (eol : BitVec 16) (conf : Byte) (worst : BitVec 6)
  | cimScrub (core : Nat) (q : BitVec 2) (row : BitVec 9)
  | taskReady (d : BitVec 2) (id : Nat)
  | taskPlace (d : BitVec 2)
  | gangPlace (d : BitVec 2)
  | gangPressing (d : BitVec 2)
  | taskStart (core slot : Nat)
  | recordEnqueue (d : BitVec 2) (id : Nat)
  | detAtomicBatch (key : Nat)
  | kernelBoundary (rid : BitVec 16)
  | pageDigestDone (rid : BitVec 16)
  | resultLands (core slot : Nat)
  | loadLanding (core id : Nat)
  | holdRelease (core slot : Nat)
  | bundleLineFill (core line : Nat)
  | waitComplete (core slot : Nat)
  | gbarRelease (core slot : Nat)
  | domainFreeze (rid : BitVec 16)
  | domainResume (rid : BitVec 16)
  | trapTaken (core slot : Nat)
  | contextSave (core slot : Nat)
  | orderQueuePerform (core slot id : Nat)
  | seqaddPerform (core slot id : Nat)
  | atomicExecute (core slot id : Nat)
  | remoteLoadServe (id : Nat)
  | remoteStoreLanding (id : Nat)
  | barrierArrival (id : Nat)
  | ackReturn (id : Nat)
  | destAbsentTimeout (id : Nat)
  | copyLanding (core tag : Nat)
  | copyComplete (core tag : Nat)
  | engineFailure (core tag : Nat) (f : EngFail)
  | wmsetApply (core tag : Nat)
  | qnoDeparture (core slot : Nat)
  | messageArrival (id : Nat)
  | putLanding (id : Nat)
  | atticSpill (core : Nat)
  | atticReplay (core : Nat)
  | snetHop (rid : BitVec 16)
  | snldTableEffect (core : Nat)
  | mxrunStart (core : Nat)
  | qmaChunkArrival (core : Nat)
  | mxrunStepComplete (core : Nat)
  | mxrunEmission (core : Nat)
  | mxldbLoad (core : Nat)
  | mxclrDone (core : Nat)
  | mxrdDone (core id : Nat)
  | cellarRecordWrite (p : Place)
  | fatalDetect (core slot : Nat) (cause : BitVec 16) (value : Word)
  | freezeWaveArrival (p : Place) (origin : BitVec 12)
  | faultDomainEnd (rid : BitVec 16)
  | vaultCopyDone (p : Place)
  | deviceFatal (cause : BitVec 16)
  | powerLoss
  | getMeasurements (fn : Fn) (block : BitVec 8)
  | mailWrite (fn : Fn) (off : Nat) (val : BitVec 32)
  | mailRead (fn : Fn) (off : Nat)
  | mailDone (fn : Fn)
  | spdmVault (fn : Fn) (op form view : Byte) (vid : Word) (off : BitVec 32)
  | peerPacket (pkg : BitVec 14) (p : Packet)
  | peerServe (id : Nat)
  deriving DecidableEq, Repr

/-- What became of the syllable or bundle being issued (log entry 4). -/
inductive Issue | none | issued | held | trapped
  deriving DecidableEq, Repr

/-- The issue context: the slot whose bundle issues, its header fields, its literal and the ports it popped (R95, R98,
R100, R81), and the first result number of this bundle's own results. The model's own (log entry 4). -/
structure Cursor where
  core : Nat
  slot : Nat
  next : Word
  first : Nat
  lit : Option (BitVec 32)
  hwait : Nat
  strict : Bool
  pops : List (Reg × Vec)
  issue : Issue
  deriving DecidableEq, Repr

/-- The link that a route to a peer last took: the package that its packets come from, none for this one, its source and
destination cores, and its peer-table entry (R239, R319). -/
structure Route where
  pkg : Option (BitVec 14)
  src : Nat
  dst : Nat
  peer : BitVec 12
  link : Nat
  deriving DecidableEq, Repr

/-- The schedule: clock, GTIME in thirds of a unit, what is still to run in this clock, pending inputs and timed internal
steps, and the counters of free values and identities. The model's own (log entries 4, 5). -/
structure Sched where
  clock : Nat
  g3 : Nat
  todoEv : List Event
  todoCores : List Nat
  agenda : List (Nat × Event)
  fresh : Nat
  nextId : Nat
  deriving DecidableEq, Repr

/-- The package. `absent` lists the cores that the fuse map marks absent, fixed for the package (R12). `inbound` holds the packets of other packages that have not landed
yet, oldest first (R239, R244), `answers` the answers to landed ones that wait for a trained link (R317), and `routes` the
links that routes took since the last write of their peer-table entry (R319). `toPoison` names counters that await their page's translation to be poisoned (R265), and `known` are the translations that
the device was given and not told to drop (R195). -/
structure State where
  cur : Cursor
  sched : Sched
  mem : List Host.Cell
  poison : List Nat
  owners : List (Nat × Nat)
  cores : List (Nat × Core)
  dies : Vector Die 4
  regions : List Region
  domains : List Domain
  net : List Packet
  inbound : List Packet
  answers : List (Packet × Option (BitVec 16))
  routes : List Route
  snet : List SnPacket
  bar : Bar
  links : Vector Link 12
  power : Power
  vault : Vault
  manifests : List Manifest
  nextMan : Nat
  deferred : List Deferred
  toPoison : List (BitVec 20 × Nat)
  known : List Xlate
  outputs : List Output
  absent : List Nat
  deriving DecidableEq, Repr

/-! ### Reset -/

/-- An unused accumulator element as MXCLR leaves it (R155). -/
def Elem.clear : Elem := ⟨0, 0, 0, true, false, false, false, false⟩

/-- A Cellar after a cold reset: every record slot invalid (R268). -/
def Cellar.reset : Cellar := ⟨[], 0, [], [], .none, false, 0, 0, false⟩

/-- CELLCTL at its tabled reset, the trigger registers zero (R275, R277). -/
def Recorder.reset : Recorder := ⟨0x000007FB88008000, Vector.replicate 4 0, 0, 0, 0, .none, (0, 0), 0, []⟩

/-- The matrix store cleared (R168; log entry 2). -/
def Matrix.clear : Matrix := ⟨[], [], 0, 0, [], [], [], [], []⟩

/-- The gang engine idle, MXCFG at its tabled reset: ABITS 8, WIN 0x20 (R89). -/
def Engine.reset : Engine := ⟨0x220, 0, 0, [], .none, [], [], [], 0, []⟩

/-- A router with the all-zero table (R245). -/
def Router.reset : Router := ⟨.none, [0], []⟩

/-- Inbox, mailboxes, channels, copies, windows and latency accumulators after reset (R90, R91, R92). -/
def CoreNet.reset : CoreNet :=
  ⟨[], [], [], 0, .none, Vector.replicate 64 0, Vector.replicate 8 ⟨false, 0, 0, 0, []⟩, [], 31, 0, [],
    Vector.replicate 64 0, [], Router.reset⟩

/-- A core after reset: no thread, empty engines (R85). -/
def Core.reset : Core :=
  ⟨Vector.replicate 8 .none, [], Matrix.clear, Engine.reset, CoreNet.reset, ⟨[], [], [], []⟩, Cellar.reset,
    Recorder.reset, .none, false, false⟩

/-- A die after reset; AGEMON.EOL reads 0xFFFF (R321). -/
def Die.reset : Die := ⟨[], .none, [], [], [], [], Cellar.reset, [], 0, 0, 0x0000FFFF00000000⟩

/-- A function's own registers after reset (R20, R254, R261, R305, R314). -/
def FnRegs.reset : FnRegs := ⟨0, 0, 0, 0, 0, false, 0, .none, .none, .none, (0, (0, 0)), []⟩

/-- BAR 0 after reset: STAGE 1, FAILST 0xF, LIMIT 0x0640, all else zero (R316, R320). -/
def Bar.reset : Bar :=
  { stage := 1, failst := 0xF, fatal := false, ptplock := false, ready := false, hostcap := 0,
    tenbind := Vector.replicate 64 0, vfbind := Vector.replicate 16 0, pwrlimit := 0x0640, pwrstat := 0,
    dbgstat := 0, dbgpc := 0, dbgtick := 0, dbgwho := .none, errinj := 0, injected := none, peers := [], fns := [] }

/-- A link after reset: EN, SCHED and every rate set, untrained (R317). -/
def Link.reset : Link := ⟨0xC7, 0, false, false⟩

/-- A mailbox after reset (R291; log entry 2). -/
def Mailbox.reset : Mailbox := ⟨0, 0, 0, 0, false, 0, List.replicate 256 0⟩

/-- The Vault with nothing kept (R289). -/
def Vault.reset : Vault := ⟨1, [], [], [], 0, [], [], [], []⟩

/-- The issue context between bundles (log entry 4). -/
def Cursor.idle : Cursor := ⟨0, 0, 0, 0, .none, 0, false, [], .none⟩

/-- The package right after reset (R315, R316): stage 1, no region, no task, nothing listed in memory, no core absent
(log entry 6). -/
def State.reset : State :=
  { cur := Cursor.idle, sched := ⟨0, 0, [], [], [], 0, 1⟩, mem := [], poison := [], owners := [], cores := [],
    dies := Vector.replicate 4 Die.reset, regions := [], domains := [], net := [], inbound := [], answers := [], routes := [],
    snet := [], bar := Bar.reset, links := Vector.replicate 12 Link.reset, power := ⟨[], [], [], [], false, []⟩, vault := Vault.reset, manifests := [],
    nextMan := 1, deferred := [], toPoison := [], known := [], outputs := [], absent := [] }

end Sys2Proof.Machine
end

