-- ==== Sys2Proof/Machine/Ops.lean ====
section
/-! DEFINITION. The named operations over memory, cores, threads, registers, the recorder and traps that every meaning
is written with. Taking a trap and returning from one stand at the end. -/

namespace Sys2Proof.Machine

/-! ### Memory (R171, R173, R187, R189; log entry 1) -/

/-- What an unlisted byte reads as (log entry 1, DESIGN CHOICE). -/
def Memory.blank : Byte := 0

/-- The byte at a key. -/
def Memory.read (m : List Host.Cell) (a : Nat) : Byte :=
  match m with
  | [] => Memory.blank
  | (k, v) :: r => if k = a then v else Memory.read r a

/-- Write one byte, keeping keys rising and no listed byte equal to `blank`. -/
def Memory.write (m : List Host.Cell) (a : Nat) (v : Byte) : List Host.Cell :=
  match m with
  | [] => if v = Memory.blank then [] else [(a, v)]
  | (k, w) :: r =>
    if a < k then (if v = Memory.blank then (k, w) :: r else (a, v) :: (k, w) :: r)
    else if a = k then (if v = Memory.blank then r else (k, v) :: r)
    else (k, w) :: Memory.write r a v

/-- The canonical form: keys strictly rising, no byte equal to `blank`. -/
def Memory.wf (m : List Host.Cell) : Bool :=
  match m with
  | [] => true
  | (k, v) :: r => v ≠ Memory.blank && r.all (fun c => k < c.1) && Memory.wf r

/-- n bytes from a key, lowest address first. -/
def Memory.readBytes (m : List Host.Cell) (a n : Nat) : List Byte :=
  match n with
  | 0 => []
  | n + 1 => Memory.read m a :: Memory.readBytes m (a + 1) n

/-- Write bytes from a key upward. -/
def Memory.writeBytes (m : List Host.Cell) (a : Nat) (l : List Byte) : List Host.Cell :=
  match l with
  | [] => m
  | v :: l => Memory.writeBytes (Memory.write m a v) (a + 1) l

/-- The little-endian value of bytes (R6). -/
def leValue (l : List Byte) : Nat :=
  match l with
  | [] => 0
  | v :: l => v.toNat + 256 * leValue l

/-- n little-endian bytes of a value (R6). -/
def leBytes (v n : Nat) : List Byte :=
  match n with
  | 0 => []
  | n + 1 => BitVec.ofNat 8 v :: leBytes (v / 256) n

/-- An n-byte little-endian value in memory. -/
def Memory.readLE (m : List Host.Cell) (a n : Nat) : Nat := leValue (Memory.readBytes m a n)

/-- Store the low n bytes of a value. -/
def Memory.writeLE (m : List Host.Cell) (a n v : Nat) : List Host.Cell := Memory.writeBytes m a (leBytes v n)

/-- The key of a scratchpad byte (R173; log entry 1). -/
def keyL (core off : Nat) : Nat := core * 0x80000 + off

/-- The key of a stack byte: a BAR 2 offset (R187; log entry 1). -/
def keyStack (off : Nat) : Nat := 2 ^ 40 + off

/-- The key of a host byte (R187; log entry 1). -/
def keyHost (addr : Nat) : Nat := 2 ^ 48 + addr

/-- Is a key a stack byte? -/
def isStack (key : Nat) : Bool := 2 ^ 40 ≤ key && key < 2 ^ 48

/-- Is a key a host byte? -/
def isHost (key : Nat) : Bool := 2 ^ 48 ≤ key

/-- The physical line address of a memory key: the host address, or the BAR 2 offset of a stack byte (R187; log entry 1). -/
def physOf (key : Nat) : Nat := if isHost key then key - 2 ^ 48 else key % 2 ^ 40

/-- The stack in which a BAR 2 offset lies; those of die d are 2d and 2d + 1 (R189). -/
def stackOf (off : Nat) : Nat := (off / 2 ^ 12 % 8) ^^^ (off / 2 ^ 21 % 8)

/-- The home slice of a stack or host line (R189). -/
def homeSlice (key : Nat) : Nat :=
  let pa := physOf key
  let f (i : Nat) : Nat := pa / 2 ^ i % 32
  (((((((f 6 ^^^ f 11) ^^^ f 16) ^^^ f 21) ^^^ f 26) ^^^ f 31) ^^^ f 36) ^^^ f 41)

/-! ### Address classes (R171, R181) -/

/-- The class of an address. -/
inductive AClass | l | g | m | none
  deriving DecidableEq, Repr

/-- R171. -/
def classOf (a : Word) : AClass :=
  if a.toNat < 0x80000 then .l
  else if a.toNat < 2 ^ 47 then .m
  else if a.toNat < 2 ^ 48 then .g
  else .none

/-- The peer index of a class-G address (R171). -/
def gPeer (a : Word) : BitVec 12 := a.extractLsb' 35 12

/-- The core number that a class-G address names: (die, row, col) counted die by die (R12, R171). -/
def gCore (a : Word) : Nat :=
  (a.extractLsb' 33 2).toNat * 768 + (a.extractLsb' 28 5).toNat * 32 + (a.extractLsb' 23 5).toNat

/-- The scratchpad offset of a class-G address (R171). -/
def gOff (a : Word) : Nat := (a.extractLsb' 0 19).toNat

/-- The die of a core number. -/
def dieOf (n : Nat) : Nat := n / 768

/-- The row of a core number within its die. -/
def rowOf (n : Nat) : Nat := n / 32 % 24

/-- The column of a core number. -/
def colOf (n : Nat) : Nat := n % 32

/-- The coordinates of a core as ORIGIN (R273). -/
def originOf (n : Nat) : BitVec 12 := BitVec.ofNat 12 (dieOf n * 1024 + rowOf n * 32 + colOf n)

/-- Is a core present: of the package and not absent in the fuse map (R12)? -/
def present (s : State) (n : Nat) : Bool := n < 3072 && !s.absent.contains n

/-! ### Association lists -/

/-- The entry of a key, or a default. -/
def assocGet {α : Type} (l : List (Nat × α)) (k : Nat) (d : α) : α :=
  match l with
  | [] => d
  | (i, v) :: r => if i = k then v else assocGet r k d

/-- Set the entry of a key, keeping keys rising. -/
def assocSet {α : Type} (l : List (Nat × α)) (k : Nat) (v : α) : List (Nat × α) :=
  match l with
  | [] => [(k, v)]
  | (i, w) :: r => if k < i then (k, v) :: (i, w) :: r else if k = i then (k, v) :: r else (i, w) :: assocSet r k v

/-- Remove a key. -/
def assocErase {α : Type} (l : List (Nat × α)) (k : Nat) : List (Nat × α) := l.filter (fun e => e.1 ≠ k)

/-- Keep the last n elements. -/
def lastN {α : Type} (n : Nat) (l : List α) : List α := l.drop (l.length - n)

/-! ### Cores, dies and threads -/

/-- A core; an unlisted core is as after reset. -/
def State.core (s : State) (n : Nat) : Core := assocGet s.cores n Core.reset

/-- Replace a core. -/
def State.setCore (s : State) (n : Nat) (c : Core) : State := { s with cores := assocSet s.cores n c }

/-- Change a core. -/
def State.modCore (s : State) (n : Nat) (f : Core → Core) : State := s.setCore n (f (s.core n))

/-- A die. -/
def State.die (s : State) (d : BitVec 2) : Die := s.dies[d.toNat]

/-- Change a die. -/
def State.modDie (s : State) (d : BitVec 2) (f : Die → Die) : State :=
  { s with dies := s.dies.set d.toNat (f (s.die d)) }

/-- The thread in slot k of core n. -/
def State.thread (s : State) (n k : Nat) : Option Thread := ((s.core n).slots[k]?).join

/-- Put a thread, or none, in slot k of core n. -/
def State.setThread (s : State) (n k : Nat) (t : Option Thread) : State :=
  s.modCore n (fun c => { c with slots := c.slots.setIfInBounds k t })

/-- Change the thread of a slot, if it has one. -/
def State.modThread (s : State) (n k : Nat) (f : Thread → Thread) : State :=
  match s.thread n k with
  | none => s
  | some t => s.setThread n k (some (f t))

/-- The thread whose bundle issues. -/
def State.cth (s : State) : Option Thread := s.thread s.cur.core s.cur.slot

/-- Change the thread whose bundle issues. -/
def State.modCth (s : State) (f : Thread → Thread) : State := s.modThread s.cur.core s.cur.slot f

/-- The core whose slot issues. -/
def State.ccore (s : State) : Core := s.core s.cur.core

/-- Change the core whose slot issues. -/
def State.modCcore (s : State) (f : Core → Core) : State := s.modCore s.cur.core f

/-- Change a core's engine. -/
def State.modEng (s : State) (n : Nat) (f : Engine → Engine) : State := s.modCore n (fun c => { c with eng := f c.eng })

/-- Change a core's message, copy and window state. -/
def State.modNet (s : State) (n : Nat) (f : CoreNet → CoreNet) : State :=
  s.modCore n (fun c => { c with net := f c.net })

/-- Change a core's matrix state. -/
def State.modMx (s : State) (n : Nat) (f : Matrix → Matrix) : State := s.modCore n (fun c => { c with mx := f c.mx })

/-- Change a core's caches. -/
def State.modCache (s : State) (n : Nat) (f : Caches → Caches) : State :=
  s.modCore n (fun c => { c with cache := f c.cache })

/-- The slots, 0 to 7. -/
def allSlots : List Nat := [0, 1, 2, 3, 4, 5, 6, 7]

/-- The slot that holds the thread with an identity. -/
def State.slotOf (s : State) (n tid : Nat) : Option Nat :=
  allSlots.find? (fun k => match s.thread n k with | some t => t.tid = tid | none => false)

/-- Change the thread with an identity on a core, if it is still there. -/
def State.modTid (s : State) (n tid : Nat) (f : Thread → Thread) : State :=
  match s.slotOf n tid with
  | none => s
  | some k => s.modThread n k f

/-! ### Free choices and identities -/

/-- Advance the counter of free values (log entry 8). -/
def State.tickFresh (s : State) : State := { s with sched := { s.sched with fresh := s.sched.fresh + 1 } }

/-- The entries of a list in a free order, from free choice number k on. -/
def shuffle {α : Type} (fuel k : Nat) (l : List α) : List α :=
  match fuel with
  | 0 => []
  | fuel + 1 =>
    match l[Config.pick k % l.length]? with
    | some e => e :: shuffle fuel (k + 1) (l.eraseIdx (Config.pick k % l.length))
    | none => []

/-- Take the next identity. -/
def State.newId (s : State) : Nat × State :=
  (s.sched.nextId, { s with sched := { s.sched with nextId := s.sched.nextId + 1 } })

/-- GTIME (R67; log entry 6). -/
def State.gtime (s : State) : Nat := s.sched.g3 / 3

/-- The schedule's event of a device step; a syllable has none. -/
def eventOf (i : Instr) : Option Event :=
  match i with
  | .regstart a b => some (.regstart a b)
  | .park a b => some (.park a b)
  | .parkDone a => some (.parkDone a)
  | .resume a b => some (.resume a b)
  | .evict a b => some (.evict a b)
  | .evictDone a => some (.evictDone a)
  | .restore a b => some (.restore a b)
  | .teardown a b => some (.teardown a b)
  | .thrint a b => some (.thrint a b)
  | .manreq a b => some (.manreq a b)
  | .manifestRangeHash a => some (.manifestRangeHash a)
  | .ttbaseWrite a b => some (.ttbaseWrite a b)
  | .tenbindWrite a b => some (.tenbindWrite a b)
  | .peerTableWrite a b => some (.peerTableWrite a b)
  | .ringmasterArm a b c => some (.ringmasterArm a b c)
  | .ringmasterDisarm a b c => some (.ringmasterDisarm a b c)
  | .ringmasterLaunch a b => some (.ringmasterLaunch a b)
  | .retrain a b => some (.retrain a b)
  | .linkEnable a b => some (.linkEnable a b)
  | .linkDisable a b => some (.linkDisable a b)
  | .linkErrorRetrain a => some (.linkErrorRetrain a)
  | .linkTrainingDone a b => some (.linkTrainingDone a b)
  | .linkTrainTimeout a => some (.linkTrainTimeout a)
  | .debugStop a => some (.debugStop a)
  | .debugStopDone a b => some (.debugStopDone a b)
  | .debugRelease a => some (.debugRelease a)
  | .errinj a => some (.errinj a)
  | .registerWrite a b c d => some (.registerWrite a b c d)
  | .list a b => some (.list a b)
  | .fetch a b c d e => some (.fetch a b c d e)
  | .erase a => some (.erase a)
  | .manifestFetch a b c => some (.manifestFetch a b c)
  | .atsInvalidate a b c => some (.atsInvalidate a b c)
  | .translationCompletion a b c => some (.translationCompletion a b c)
  | .pageResponse a b c => some (.pageResponse a b c)
  | .hostAtomicop a b c d e => some (.hostAtomicop a b c d e)
  | .hostBar2Access a b c d => some (.hostBar2Access a b c d)
  | .atomicopFailed a b c => some (.atomicopFailed a b c)
  | .powerOn => some .powerOn
  | .warmReset => some .warmReset
  | .coldReset => some .coldReset
  | .bringupStageEnd a => some (.bringupStageEnd a)
  | .ptpLockTimeout => some .ptpLockTimeout
  | .ptpLockChange a => some (.ptpLockChange a)
  | .powerControl a b c d e f => some (.powerControl a b c d e f)
  | .thermalThrottle a => some (.thermalThrottle a)
  | .ageingUpdate a b c d => some (.ageingUpdate a b c d)
  | .cimScrub a b c => some (.cimScrub a b c)
  | .taskReady a b => some (.taskReady a b)
  | .taskPlace a => some (.taskPlace a)
  | .gangPlace a => some (.gangPlace a)
  | .gangPressing a => some (.gangPressing a)
  | .taskStart a b => some (.taskStart a b)
  | .recordEnqueue a b => some (.recordEnqueue a b)
  | .detAtomicBatch a => some (.detAtomicBatch a)
  | .kernelBoundary a => some (.kernelBoundary a)
  | .pageDigestDone a => some (.pageDigestDone a)
  | .resultLands a b => some (.resultLands a b)
  | .loadLanding a b => some (.loadLanding a b)
  | .holdRelease a b => some (.holdRelease a b)
  | .bundleLineFill a b => some (.bundleLineFill a b)
  | .waitComplete a b => some (.waitComplete a b)
  | .gbarRelease a b => some (.gbarRelease a b)
  | .domainFreeze a => some (.domainFreeze a)
  | .domainResume a => some (.domainResume a)
  | .trapTaken a b => some (.trapTaken a b)
  | .contextSave a b => some (.contextSave a b)
  | .orderQueuePerform a b c => some (.orderQueuePerform a b c)
  | .seqaddPerform a b c => some (.seqaddPerform a b c)
  | .atomicExecute a b c => some (.atomicExecute a b c)
  | .remoteLoadServe a => some (.remoteLoadServe a)
  | .remoteStoreLanding a => some (.remoteStoreLanding a)
  | .barrierArrival a => some (.barrierArrival a)
  | .ackReturn a => some (.ackReturn a)
  | .destAbsentTimeout a => some (.destAbsentTimeout a)
  | .copyLanding a b => some (.copyLanding a b)
  | .copyComplete a b => some (.copyComplete a b)
  | .engineFailure a b c => some (.engineFailure a b c)
  | .wmsetApply a b => some (.wmsetApply a b)
  | .qnoDeparture a b => some (.qnoDeparture a b)
  | .messageArrival a => some (.messageArrival a)
  | .putLanding a => some (.putLanding a)
  | .atticSpill a => some (.atticSpill a)
  | .atticReplay a => some (.atticReplay a)
  | .snetHop a => some (.snetHop a)
  | .snldTableEffect a => some (.snldTableEffect a)
  | .mxrunStart a => some (.mxrunStart a)
  | .qmaChunkArrival a => some (.qmaChunkArrival a)
  | .mxrunStepComplete a => some (.mxrunStepComplete a)
  | .mxrunEmission a => some (.mxrunEmission a)
  | .mxldbLoad a => some (.mxldbLoad a)
  | .mxclrDone a => some (.mxclrDone a)
  | .mxrdDone a b => some (.mxrdDone a b)
  | .cellarRecordWrite a => some (.cellarRecordWrite a)
  | .fatalDetect a b c d => some (.fatalDetect a b c d)
  | .freezeWaveArrival a b => some (.freezeWaveArrival a b)
  | .faultDomainEnd a => some (.faultDomainEnd a)
  | .vaultCopyDone a => some (.vaultCopyDone a)
  | .deviceFatal a => some (.deviceFatal a)
  | .powerLoss => some .powerLoss
  | .getMeasurements a b => some (.getMeasurements a b)
  | _ => none

/-- The power island of a core, which holds two rows of a die (R320). -/
def islandOf (n : Nat) : Nat := 16 * dieOf n + rowOf n / 2

/-- The clocks of a core since reset: a swallowed pulse is none (R66). -/
def State.coreClock (s : State) (n : Nat) : Nat := s.sched.clock - assocGet s.power.lost (islandOf n) 0

/-- Has a core a clock pulse in this clock (R66, R320)? -/
def State.pulsed (s : State) (n : Nat) : Bool := !s.power.idle.contains (islandOf n)

/-- Put an event in the agenda at a clock (log entry 4). -/
def State.schedule (s : State) (c : Nat) (i : Event) : State :=
  { s with sched := { s.sched with agenda := s.sched.agenda ++ [(c, i)] } }

/-- Something leaves the package (log entry 4). -/
def State.emit (s : State) (o : Output) : State := { s with outputs := s.outputs ++ [o] }

/-! ### Registers (R76 to R79) -/

/-- x r; x0 reads zero (R76). -/
def Regs.getX (g : Regs) (r : Reg) : Word := if r = 0 then 0 else g.x[r.toNat]'(r.isLt)

/-- y r; y0 reads zero (R76). -/
def Regs.getY (g : Regs) (r : Reg) : Word := if r = 0 then 0 else g.y[r.toNat]'(r.isLt)

/-- v r, for v0 to v23 (R78). -/
def Regs.getV (g : Regs) (r : Reg) : Vec := (g.v[r.toNat]?).getD 0

/-- p r; p0 reads true (R79). -/
def Regs.getP (g : Regs) (r : BitVec 3) : Bool := if r = 0 then true else g.p[r.toNat]'(r.isLt)

/-- m r; m0 reads all ones (R79). -/
def Regs.getM (g : Regs) (r : BitVec 3) : Word := if r = 0 then BitVec.allOnes 64 else g.m[r.toNat]'(r.isLt)

/-- A scalar register of a cluster. -/
def Regs.getS (g : Regs) (cl : Cl) (r : Reg) : Word := match cl with | .x => g.getX r | .y => g.getY r

/-- A register as 512 bits (R256). -/
def Regs.get (g : Regs) (d : Dest) : Vec :=
  match d with
  | .x r => (g.getX r).setWidth 512
  | .y r => (g.getY r).setWidth 512
  | .v r => g.getV r
  | .p r => if g.getP r then 1 else 0
  | .m r => (g.getM r).setWidth 512
  | .port _ => 0

/-- Write a register from 512 bits; x0, y0, p0 and m0 discard it (R76, R79). -/
def Regs.put (g : Regs) (d : Dest) (v : Vec) : Regs :=
  match d with
  | .x r => if r = 0 then g else { g with x := g.x.set r.toNat (v.setWidth 64) r.isLt }
  | .y r => if r = 0 then g else { g with y := g.y.set r.toNat (v.setWidth 64) r.isLt }
  | .v r => { g with v := g.v.setIfInBounds r.toNat v }
  | .p r => if r = 0 then g else { g with p := g.p.set r.toNat (v.getLsbD 0) r.isLt }
  | .m r => if r = 0 then g else { g with m := g.m.set r.toNat (v.setWidth 64) r.isLt }
  | .port _ => g

/-- Replace the bits of `old` that `mask` selects (R53). -/
def blend (old new mask : Vec) : Vec := (old &&& ~~~mask) ||| (new &&& mask)

/-- Write a register's selected bits (R53, R402). -/
def Regs.putMasked (g : Regs) (d : Dest) (v mask : Vec) : Regs := g.put d (blend (g.get d) v mask)

/-- THS.MODE (R87). -/
def Thread.mode (t : Thread) : Nat := t.ctl.ths.toNat % 4

/-- THS.TIMED (R87). -/
def Thread.timed (t : Thread) : Bool := t.ctl.ths.getLsbD 2

/-- THS.DET (R87). -/
def Thread.det (t : Thread) : Bool := t.ctl.ths.getLsbD 3

/-- THS.DSTR (R87). -/
def Thread.dstr (t : Thread) : BitVec 4 := t.ctl.ths.extractLsb' 16 4

/-- THS.RM (R87). -/
def Thread.rm (t : Thread) : Nat := (t.ctl.ths.extractLsb' 5 2).toNat

/-- A register is pending (R83); x0 and y0 never are. -/
def Thread.isPending (t : Thread) (d : Dest) : Bool := t.pipe.pend.contains d

/-- OR sticky flags into THS[12:8] (R87, R131). -/
def raiseFlags (ths : Word) (f : BitVec 5) : Word := ths ||| (f.setWidth 64 <<< 8)

/-! ### Queue ports (R80, R81) -/

/-- Is a guard of a scalar, L or C syllable true (R79)? -/
def guardHolds (g : Regs) (c : Guard) : Bool := g.getP c.g ^^ c.n

/-- The messages of an inbox for a slot, oldest first (R80). -/
def inboxFor (c : Core) (k : Nat) : List Msg := c.net.inbox.filter (fun m => m.slot.toNat = k)

/-- Remove the oldest message for a slot. -/
def dropMsg (l : List Msg) (k : Nat) : List Msg :=
  match l with
  | [] => []
  | m :: r => if m.slot.toNat = k then r else m :: dropMsg r k

/-- Would a pop of a source port find an entry? -/
def popReady (s : State) (r : Reg) : Bool :=
  s.cur.pops.any (fun p => p.1 = r) ||
    (if r = 24 then (inboxFor s.ccore s.cur.slot).length > 0
     else if r = 27 then s.ccore.eng.qmr.length > 0 else true)

/-- Pop a source port once per bundle, keeping the value for the bundle's other syllables (R81). -/
def popPort (s : State) (r : Reg) : State :=
  if s.cur.pops.any (fun p => p.1 = r) then s
  else if r = 24 then
    match inboxFor s.ccore s.cur.slot with
    | [] => s
    | m :: _ =>
      let s := s.modNet s.cur.core (fun n => { n with inbox := dropMsg n.inbox s.cur.slot })
      { s with cur := { s.cur with pops := s.cur.pops ++ [(r, m.data)] } }
  else if r = 27 then
    match s.ccore.eng.qmr with
    | [] => s
    | v :: q =>
      let s := s.modEng s.cur.core (fun e => { e with qmr := q })
      { s with cur := { s.cur with pops := s.cur.pops ++ [(r, v)] } }
  else s

/-- The value of a vector source: a register, or the bundle's popped value. -/
def vecOf (s : State) (t : Thread) (r : Reg) : Vec :=
  if r.toNat < 24 then t.regs.getV r
  else match s.cur.pops.find? (fun p => p.1 = r) with
    | some p => p.2
    | none => 0

/-- The QEV entries of a core's slot: those of its thread, and those that its ended threads have left (R80, R344). -/
def qevUsed (s : State) (t : Thread) : Nat :=
  ((s.ccore.ended.filter (fun u => u.life.left = s.cur.slot)).map (fun u => u.qev.length)).foldl (· + ·) t.qev.length

/-- Can a push reserve an entry: QNO 8 and QEV 4 per slot, QMA 16 per core (R80)? -/
def pushReady (s : State) (t : Thread) (r : Reg) : Bool :=
  if r = 25 then t.qno.length < 8
  else if r = 26 then s.ccore.eng.qma.length < 16
  else if r = 28 then qevUsed s t < 4
  else true

/-- Reserve a port entry under an identity (R81). -/
def reservePort (s : State) (n k : Nat) (r : Reg) (e : PortSlot) : State :=
  if r = 25 then s.modThread n k (fun t => { t with qno := t.qno ++ [e] })
  else if r = 26 then s.modEng n (fun g => { g with qma := g.qma ++ [e] })
  else if r = 28 then s.modThread n k (fun t => { t with qev := t.qev ++ [e] })
  else s

/-- Fill the entry with an identity. -/
def fillSlots (l : List PortSlot) (id : Nat) (v : Vec) : List PortSlot :=
  l.map (fun e => if e.id = id then { e with val := some v } else e)

/-- A push lands in its reserved entry (R81). -/
def fillPort (s : State) (n k : Nat) (r : Reg) (id : Nat) (v : Vec) : State :=
  if r = 25 then s.modThread n k (fun t => { t with qno := fillSlots t.qno id v })
  else if r = 26 then s.modEng n (fun g => { g with qma := fillSlots g.qma id v })
  else if r = 28 then s.modThread n k (fun t => { t with qev := fillSlots t.qev id v })
  else s

/-! ### Results in flight (R52, R53) -/

/-- Give the issuing thread a result: `val` under `mask` in `d` after `lat` turns, with flags on landing. A push reserves
its entry now. -/
def pushFlight (s : State) (d : Dest) (val mask : Vec) (lat : Nat) (flags : BitVec 5) : State :=
  let (id, s) := s.newId
  let s := match d, s.cth with
    | .port r, some t => reservePort s s.cur.core s.cur.slot r ⟨id, t.tid, none⟩
    | _, _ => s
  s.modCth (fun t => { t with pipe := { t.pipe with flights := t.pipe.flights ++ [⟨id, d, val, mask, lat, flags⟩] } })

/-- One result lands: its bits, its port entry, its flags (R53, R81, R87). -/
def landFlight (s : State) (n k : Nat) (f : Flight) : State :=
  let s := s.modThread n k (fun t =>
    { t with
      regs := t.regs.putMasked f.dest f.val f.mask
      ctl := { t.ctl with ths := raiseFlags t.ctl.ths f.flags } })
  match f.dest with
  | .port r => fillPort s n k r f.id (f.val &&& f.mask)
  | _ => s

/-- Count one turn off every result in flight. -/
def ageFlights (l : List Flight) : List Flight := l.map (fun f => { f with rem := f.rem - 1 })

/-- One turn of a slot passes: the results that become visible in it land in issue order (R52, R53). -/
def landTurn (s : State) (n k : Nat) : State :=
  match s.thread n k with
  | none => s
  | some t =>
    let aged := ageFlights t.pipe.flights
    let s := s.setThread n k (some { t with pipe := { t.pipe with flights := aged.filter (fun f => f.rem ≠ 0) } })
    (aged.filter (fun f => f.rem = 0)).foldl (fun s f => landFlight s n k f) s

/-! ### Regions (R15 to R19) -/

/-- The live region with an id. -/
def State.region (s : State) (rid : BitVec 16) : Option Region := s.regions.find? (fun r => r.rid = rid)

/-- Change a region. -/
def State.modRegion (s : State) (rid : BitVec 16) (f : Region → Region) : State :=
  { s with regions := s.regions.map (fun r => if r.rid = rid then f r else r) }

/-- A region and its ancestors below the device, nearest first (R15). -/
def ancestryFrom (s : State) (fuel : Nat) (rid : BitVec 16) : List Region :=
  match fuel with
  | 0 => []
  | fuel + 1 =>
    match s.region rid with
    | none => []
    | some r => r :: ancestryFrom s fuel r.parent

/-- A region and its ancestors; no depth exceeds 8 (R15). -/
def State.ancestry (s : State) (rid : BitVec 16) : List Region := ancestryFrom s 9 rid

/-- Is region `rid` in the subtree of `root`? -/
def State.within (s : State) (root rid : BitVec 16) : Bool := (s.ancestry rid).any (fun r => r.rid = root)

/-- The live regions of a subtree. -/
def State.subtree (s : State) (root : BitVec 16) : List Region := s.regions.filter (fun r => s.within root r.rid)

/-- The fault-domain root of a region (R19). -/
def State.faultRoot (s : State) (rid : BitVec 16) : BitVec 16 :=
  match (s.ancestry rid).find? (fun r => r.fdr || r.depth = 1) with
  | some r => r.rid
  | none => rid

/-- The tag of a region, 0 for none (R272). -/
def State.tagOf (s : State) (rid : BitVec 16) : BitVec 13 :=
  match s.region rid with | some r => r.tag | none => 0

/-- The timed domain of a region: that of its topmost timed ancestor-or-self (R60). -/
def State.domain (s : State) (rid : BitVec 16) : Option Domain :=
  s.domains.find? (fun d => s.within d.root rid)

/-- Change a timed domain. -/
def State.modDomain (s : State) (root : BitVec 16) (f : Domain → Domain) : State :=
  { s with domains := s.domains.map (fun d => if d.root = root then f d else d) }

/-- DOMTICK as a thread reads it: zero when untimed (R61). -/
def State.domtick (s : State) (t : Thread) : Nat :=
  if t.timed then match s.domain t.task.rid with | some d => d.ticks | none => 0 else 0

/-- Is a user-mode member's domain frozen in this clock (R62)? Handler mode is not domain time (R63). -/
def State.frozenFor (s : State) (t : Thread) : Bool :=
  t.timed && t.mode = 0 && (match s.domain t.task.rid with | some d => d.frozen | none => false)

/-- The cores that slots or tasks of a region use. -/
def regionCores (s : State) (root : BitVec 16) : List Nat :=
  ((s.subtree root).map (fun r => r.cores)).flatten.eraseDups

/-! ### The recorder (R268 to R279) -/

/-- The class of a record type (R274). -/
def recordClass (ty : Nat) : Nat :=
  match ty with
  | 0x01 => 0 | 0x02 => 0 | 0x03 => 1 | 0x04 => 1 | 0x05 => 2 | 0x06 => 3 | 0x07 => 3 | 0x08 => 3 | 0x09 => 1
  | 0x0A => 4 | 0x0B => 4 | 0x0C => 5 | 0x0D => 5 | 0x0E => 5 | 0x0F => 5 | 0x10 => 6 | 0x11 => 1 | 0x12 => 6
  | 0x13 => 7 | 0x14 => 8 | 0x15 => 3 | 0x16 => 3 | 0x17 => 8 | 0x18 => 1 | 0x19 => 9 | 0x1A => 10 | 0x1B => 10
  | _ => 1

/-- Classes 1, 3 and 10 and the type ECC are written whatever the controls say (R276). -/
def recordMandatory (ty : Nat) : Bool :=
  recordClass ty = 1 || recordClass ty = 3 || recordClass ty = 10 || ty = 0x12

/-- BRANCHT, GLDMISS and MARK are droppable (R269). -/
def recordDroppable (ty : Nat) : Bool := ty = 0x05 || ty = 0x10 || ty = 0x14

/-- A record with DT zero (R273). -/
def mkRecord (ty slot : Nat) (rtag : BitVec 13) (payload : BitVec 82) : BitVec 128 :=
  BitVec.ofNat 128 (ty % 64 * 2 ^ 122 + slot % 8 * 2 ^ 119 + rtag.toNat * 2 ^ 106 + payload.toNat)

/-- Payload form C (R273). -/
def cForm (x : Nat) (pc : Word) (tk : Nat) : BitVec 82 :=
  BitVec.ofNat 82 (x % 2 ^ 21 * 2 ^ 61 + (pc.extractLsb' 5 29).toNat * 2 ^ 32 + tk % 2 ^ 32)

/-- Payload form A (R273). -/
def aForm (addr : Word) (low : Nat) : BitVec 82 :=
  BitVec.ofNat 82 ((addr.extractLsb' 0 48).toNat * 2 ^ 34 + low % 2 ^ 34)

/-- Payload form T (R273). -/
def tForm (origin : BitVec 12) (g : Nat) : BitVec 82 := BitVec.ofNat 82 (origin.toNat * 2 ^ 64 + g % 2 ^ 64)

/-- Records in a Cellar of a core and of a die (R268). -/
def cellarSize (p : Place) : Nat := match p with | .core _ => 1024 | .die _ => 16384

/-- A record enters the ring with its DT. -/
def ringPut (cap : Nat) (c : Cellar) (t dt : Nat) (v : BitVec 128) : Cellar :=
  { c with
    ring := assocSet c.ring c.wptr (t, v ||| BitVec.ofNat 128 (dt * 2 ^ 82))
    wptr := (c.wptr + 1) % cap, last := some t }

/-- Is a record a TIMEFULL? -/
def isTimefull (v : BitVec 128) : Bool := v.toNat / 2 ^ 122 = 0x16

/-- Does a TIMEFULL stand before a record: the first one, or one too late for DT (R271)? -/
def needsFull (c : Cellar) (r : Nat × BitVec 128) : Bool :=
  !isTimefull r.2 && (match c.last with | some t => r.1 - t > 0xFFFFFF | none => true)

/-- The TIMEFULL before a record (R271). -/
def ringFull (cap : Nat) (c : Cellar) (t : Nat) : Cellar :=
  ringPut cap c t 0 (mkRecord 0x16 0 0 (BitVec.ofNat 82 (t % 2 ^ 64)))

/-- Write one record into the ring with its DT, after a TIMEFULL where R271 asks for one. -/
def ringWrite (cap : Nat) (c : Cellar) (r : Nat × BitVec 128) : Cellar :=
  let c := if needsFull c r then ringFull cap c r.1 else c
  ringPut cap c r.1 (if isTimefull r.2 then 0 else r.1 - c.last.getD r.1) r.2

/-- Count a discarded record (R269, R275). -/
def loseRecord (c : Cellar) (hard : Bool) : Cellar :=
  { c with lost := if c.lost.toNat = 0x7FFF then c.lost else c.lost + 1, hlost := c.hlost || hard }

/-- A record enters the staging queue, or is discarded (R269). -/
def enterStaging (c : Cellar) (r : Nat × BitVec 128) : Cellar :=
  let droppable := recordDroppable (r.2.toNat / 2 ^ 122)
  if droppable && c.staging.length ≥ 16 then loseRecord c false
  else if c.staging.length ≥ 64 then loseRecord c (!droppable)
  else { c with staging := c.staging ++ [r] }

/-- The records of a clock enter the staging queue in the order of R270. -/
def settleRecords (c : Cellar) : Cellar :=
  { (c.incoming.map (fun e => e.2)).foldl enterStaging c with incoming := [] }

/-- The place of a core's record among those of its clock: engine records, then slot records by slot and, in a slot, by
syllable; records of a slot that belong to no syllable follow, but the start of a task precedes, and a soft error that its bundle meets goes
where its memory syllables do (R99, R270). -/
def recordPos (v : BitVec 128) : Nat :=
  let ty := v.toNat / 2 ^ 122
  let syl :=
    match ty with
    | 0x01 => 0 | 0x0B => 0 | 0x14 => (if v.getLsbD 81 then 6 else 0) | 0x10 => 5 | 0x05 => 6 | 0x04 => 6 | 0x02 => 6 | 0x19 => 6
    | 0x12 => 5 | 0x0E => 7 | _ => 8
  match ty with
  | 0x0F => 0
  | 0x0C => 1
  | 0x0D => 1
  | 0x13 => 2
  | _ => 3 + 16 * (v.toNat / 2 ^ 119 % 8) + syl

/-- Insert a record by place, after those of the same place. -/
def insertRecord (pos : Nat) (r : Nat × BitVec 128) (l : List (Nat × (Nat × BitVec 128))) : List (Nat × (Nat × BitVec 128)) :=
  match l with
  | [] => [(pos, r)]
  | e :: q => if pos < e.1 then (pos, r) :: e :: q else e :: insertRecord pos r q

/-- A record of the present clock: those of an earlier clock enter the staging queue first (R270, R281). -/
def stageRecord (c : Cellar) (pos : Nat) (r : Nat × BitVec 128) : Cellar :=
  if c.frozen then c
  else
    let c := if c.incoming.any (fun e => e.2.1 ≠ r.1) then settleRecords c else c
    { c with incoming := insertRecord pos r c.incoming }

/-- Write out the records of the clock and the staging queue, oldest first (R270, R281). -/
def flushStaging (cap : Nat) (c : Cellar) : Cellar :=
  let c := settleRecords c
  { c.staging.foldl (ringWrite cap) c with staging := [] }

/-- Is RUN set in a clock, after a stop whose records are all written (R278)? -/
def Recorder.run (r : Recorder) (clock : Nat) : Bool :=
  r.ctl.getLsbD 15 && (match r.owed with | some (c, n) => !(clock > c && n = 0) | none => true)

/-- Does a match unit fire on an event (R277)? -/
def unitFires (u : Word) (ty slot : Nat) (rtag : BitVec 13) (ba : Option (BitVec 29)) : Bool :=
  u.getLsbD 63 && (u.extractLsb' 53 6).toNat = ty && (u.getLsbD 62 || (u.extractLsb' 59 3).toNat = slot) &&
    (u.getLsbD 52 || ba = some (u.extractLsb' 19 29)) && (u.extractLsb' 6 13 = 0 || u.extractLsb' 6 13 = rtag)

/-- The units that an event fires, as a mask. -/
def firedUnits (r : Recorder) (ty slot : Nat) (rtag : BitVec 13) (ba : Option (BitVec 29)) : BitVec 4 :=
  BitVec.ofNat 4 (((List.range 4).filter (fun u => unitFires ((r.tmatch[u]?).getD 0) ty slot rtag ba)).foldl
    (fun a u => a + 2 ^ u) 0)

/-- Count firings, saturating (R277). -/
def countFirings (tcnt : Word) (m : BitVec 4) : Word :=
  (List.range 4).foldl (fun (w : Word) u =>
    if m.getLsbD u then
      (if (w.extractLsb' (16 * u) 16).toNat = 0xFFFF then w else w + BitVec.ofNat 64 (2 ^ (16 * u)))
    else w) tcnt

/-- The units that have already fired in a clock. -/
def Recorder.seen (r : Recorder) (clock : Nat) : BitVec 4 := if r.lastFire.1 = clock then r.lastFire.2 else 0

/-- The units that events of threads have already fired in a clock. -/
def Recorder.actedIn (r : Recorder) (clock : Nat) : BitVec 4 := if r.lastFire.1 = clock then r.acted else 0

/-- The start and stop actions of the units that fired in a clock, `m` of them now: where a start and a stop meet in one
clock, in whichever order, recording stops after it (R278). A stop while the POST count of an earlier stop runs starts the
count afresh (DESIGN CHOICE, unsafe: R278 does not say; log entry 67). -/
def applyFiring (r : Recorder) (clock : Nat) (m : BitVec 4) : Recorder :=
  let all := m ||| r.actedIn clock
  let starts (u : BitVec 4) : Bool := r.tsel.extractLsb' 0 4 &&& u ≠ 0
  let stops (u : BitVec 4) : Bool := r.tsel.extractLsb' 4 4 &&& u ≠ 0
  let on := r.run clock
  let r := if starts m && !on then { r with ctl := r.ctl ||| 0x8000, owed := none } else r
  if stops all && (on || starts all) then { r with owed := some (clock, (r.tsel.extractLsb' 12 16).toNat) } else r

/-- Firings of units in a clock: each unit counts once in it, and FIRED; start and stop where the event belongs to a
thread (R277 to R279). -/
def fire (r : Recorder) (clock : Nat) (m : BitVec 4) (owned : Bool) : Recorder :=
  if m = 0 then r
  else
    let seen := r.seen clock
    let was := r.actedIn clock
    let r := if owned then applyFiring r clock m else r
    { r with
      tcnt := countFirings r.tcnt (m &&& ~~~seen), fired := r.fired ||| m, lastFire := (clock, seen ||| m)
      acted := if owned then was ||| m else was }

/-- May an optional record of a type be written now (R276, R278)? -/
def optionalOn (r : Recorder) (clock ty : Nat) : Bool := r.ctl.getLsbD (32 + recordClass ty) && r.run clock

/-- An optional record is written: one of those still owed after a stop of an earlier clock (R278). -/
def payOwed (r : Recorder) (clock : Nat) : Recorder :=
  match r.owed with
  | some (c, n) => if clock > c then { r with owed := some (c, n - 1) } else r
  | none => r

/-- A core's event: it fires match units, raises WATCH for the thread `own` to which it belongs, once a clock for a unit, and
its record is staged where the event's sampling selects it (`wr`) (R274, R276 to R279). -/
def recordEvent (s : State) (n ty slot : Nat) (rtag : BitVec 13) (payload : BitVec 82) (ba : Option (BitVec 29))
    (wr : Bool) (own : Option Nat) : State :=
  let c := s.core n
  let clock := s.sched.clock
  let v := mkRecord ty slot rtag payload
  let stage (cel : Cellar) (r : Nat × BitVec 128) : Cellar := stageRecord cel (recordPos r.2) r
  if c.cellar.frozen then s
  else
    let m := firedUnits c.rcd ty slot rtag ba
    let was := c.rcd.run clock
    let seen := c.rcd.seen clock
    let rcd := fire c.rcd clock m own.isSome
    let back := if !was && rcd.run clock then rcd.heldBack.filter (fun e => e.1 = clock) else []
    let cel := back.foldl (fun cel e => stage cel e.2) c.cellar
    let rcd := if back.isEmpty then rcd else { rcd with heldBack := [] }
    let (rcd, cel) :=
      if !wr then (rcd, cel)
      else if recordMandatory ty then (rcd, stage cel (s.gtime, v))
      else if optionalOn rcd clock ty then (payOwed rcd clock, stage cel (s.gtime, v))
      else if rcd.ctl.getLsbD (32 + recordClass ty) then
        ({ rcd with heldBack := rcd.heldBack.filter (fun e => e.1 = clock) ++ [(clock, s.gtime, v)] }, cel)
      else (rcd, cel)
    let s := s.setCore n { c with rcd := rcd, cellar := cel }
    let w := c.rcd.tsel.extractLsb' 8 4 &&& m
    match (if w = 0 then none else own) with
    | none => s
    | some tid => s.modTid n tid (fun t =>
      let us := (List.range 4).filter (fun u => w.getLsbD u && !(seen.getLsbD u && t.reports.contains (.watch u)))
      { t with reports := t.reports ++ us.map (fun u => Report.watch u) })

/-- A core's event with its record. -/
def recordCore (s : State) (n ty slot : Nat) (rtag : BitVec 13) (payload : BitVec 82) (ba : Option (BitVec 29))
    (own : Option Nat) : State :=
  recordEvent s n ty slot rtag payload ba true own

/-- A record of a C form event of a thread (R273, R274). -/
def recordThread (s : State) (n k ty x : Nat) (t : Thread) (pc : Word) : State :=
  recordCore s n ty k (s.tagOf t.task.rid) (cForm x pc (s.domtick t)) (some (pc.extractLsb' 5 29)) (some t.tid)

/-- A die unit's record, in the order of the events (R276). -/
def recordDie (s : State) (d : BitVec 2) (ty : Nat) (rtag : BitVec 13) (payload : BitVec 82) : State :=
  s.modDie d (fun e => { e with cellar := stageRecord e.cellar 0 (s.gtime, mkRecord ty 0 rtag payload) })

/-- Change the Cellar of a place. -/
def modCellar (s : State) (p : Place) (f : Cellar → Cellar) : State :=
  match p with
  | .core n => s.modCore n (fun c => { c with cellar := f c.cellar })
  | .die d => s.modDie d (fun e => { e with cellar := f e.cellar })

/-- The Cellar of a place. -/
def cellarAt (s : State) (p : Place) : Cellar :=
  match p with | .core n => (s.core n).cellar | .die d => (s.die d).cellar

/-- The last record of a Cellar: its event fires a core's match units, staging is written out, the record follows, and the
Cellar freezes (R277, R281). FATAL's `ba` is its C-form BA, and `own` the thread it belongs to (R279). -/
def freezeCellar (s : State) (p : Place) (rec : BitVec 128) (ba : Option (BitVec 29)) (own : Option Nat) (capId : Nat) :
    State :=
  let s :=
    match p with
    | .core n => recordEvent s n (rec.toNat / 2 ^ 122) (rec.toNat / 2 ^ 119 % 8) (rec.extractLsb' 106 13) 0 ba false own
    | .die _ => s
  modCellar s p (fun c =>
    { ringWrite (cellarSize p) (flushStaging (cellarSize p) c) (s.gtime, rec) with frozen := true, foreign := capId })

/-! ### Timed domains (R62 to R64) -/

/-- The clock of a domain: that of its cores, which lose the same pulses (R61, R66). -/
def domClock (s : State) (d : Domain) : Nat :=
  s.coreClock (match s.region d.root with | some r => r.cores.headD 0 | none => 0)

/-- The clock from which a cause raised in this clock freezes a domain (R62). -/
def freezeClock (s : State) (d : Domain) : Nat := 8 * (domClock s d / 8) + 8 + d.lf

/-- A freeze cause is raised for the domain of a region: 0 interrupt, 1 TRAP, 2 debug stop (R62, R64). One whose clock falls
after a resume already set lets that resume happen and freezes the domain again from its own clock (DESIGN CHOICE, unsafe:
R64 also says that a cause raised while the domain is frozen joins the freeze; log entry 39). -/
def raiseFreeze (s : State) (rid : BitVec 16) (cause : BitVec 2) : State :=
  match s.domain rid with
  | none => s
  | some d =>
    let f := freezeClock s d
    if d.frozen then
      match d.resumeAt with
      | none => s
      | some r =>
        if f ≤ r then s.modDomain d.root (fun d => { d with resumeAt := none })
        else
          match d.freezeAt with
          | some _ => s
          | none => s.modDomain d.root (fun d => { d with freezeAt := some f, cause := cause })
    else
      match d.freezeAt with
      | some _ => s.modDomain d.root (fun d => { d with resumeAt := none })
      | none =>
        s.modDomain d.root (fun d => { d with freezeAt := some f, cause := cause })

/-- Does a thread keep its domain frozen: a handler running, a cause not yet taken, a debug stop (R64)? -/
def keepsFrozen (t : Thread) : Bool :=
  t.mode = 1 || t.life.stopped || t.life.stopReq ||
    t.reports.any (fun r => match r with | .trap _ => true | .preempt _ => true | _ => false)

/-- The threads of a domain's members on a core. -/
def memberThreads (s : State) (root : BitVec 16) : List Thread :=
  (s.cores.map (fun c => c.2.slots.toList.filterMap (fun t => t))).flatten.filter (fun t => t.timed && s.within root t.task.rid)

/-- After a handler's return or a release, the domain resumes when nothing keeps it frozen (R64). -/
def checkResume (s : State) (rid : BitVec 16) : State :=
  match s.domain rid with
  | none => s
  | some d =>
    if (d.frozen || d.freezeAt.isSome) && !((memberThreads s d.root).any keepsFrozen) && d.resumeAt.isNone then
      let e := max (domClock s d) (if d.frozen then 0 else d.freezeAt.getD 0)
      let r := 8 * (e / 8) + 8 + d.lf
      s.modDomain d.root (fun d => { d with resumeAt := some r })
    else s

/-! ### Fatal faults (R265, R280 to R282) -/

/-- The clocks that n units of GTIME last at the present rate, rounded down (R281). -/
def clocksOf (units : Nat) : Nat := units * 3 / 80

/-- The Cellars that a region-fatal fault freezes (R280). -/
def faultPlaces (s : State) (root : BitVec 16) : List Place :=
  let cs := regionCores s root
  let ds := (cs.map (fun n => BitVec.ofNat 2 (dieOf n))).eraseDups
  cs.map Place.core ++ ds.map Place.die

/-- The die of a place. -/
def placeDie (p : Place) : Nat := match p with | .core n => dieOf n | .die d => d.toNat

/-- The freeze wave's arrivals at the other Cellars, each within its bound (R281; log entry 5). -/
def sendWave (s : State) (p : Place) (org : BitVec 12) (ps : List Place) : State :=
  (ps.filter (fun q => q ≠ p)).foldl (fun s q =>
    let bound := if placeDie q = placeDie p then clocksOf 427 else clocksOf 1707
    let s := s.tickFresh
    s.schedule (s.sched.clock + Config.delay s.sched.fresh % bound + 1) (.freezeWaveArrival q org)) s

/-- The path of a capsule: region ids from the fault-domain root down (R285). -/
def faultPath (s : State) (root rid : BitVec 16) : List (BitVec 16) :=
  (((s.ancestry rid).map (fun r => r.rid)).takeWhile (fun r => r ≠ root) ++ [root]).reverse

/-- A region is to end with a cause and its TRAPV; the first cause stands (R250, R265). -/
def endWith (r : Region) (cause : BitVec 16) (val : Word) (now : Bool) : Region :=
  { r with
    phase := .ending, cause := r.cause.or (some cause), causev := if r.cause.isSome then r.causev else val
    endNow := r.endNow || now }

/-- Every region of a fault domain is to end with a cause, at once or when its Cellars are frozen (R265, R282). -/
def markEnding (s : State) (root : BitVec 16) (cause : BitVec 16) (val : Word) (now : Bool) : State :=
  let ids := (s.subtree root).map (fun r => r.rid)
  { s with regions := s.regions.map (fun r => if ids.contains r.rid then endWith r cause val now else r) }

/-- The Vault is to copy a core's Cellar before another region is placed there (R283). -/
def blockCore (s : State) (p : Place) : State :=
  match p with | .core n => s.modCore n (fun c => { c with blocked := true }) | .die _ => s

/-- A region-fatal fault of region `rid` detected at a place: its Cellar writes FATAL and freezes, the freeze wave leaves,
and the fault domain begins to end. A Cellar already frozen forms no capsule: a foreign fault domain then ends at once,
and its own adds nothing (R281, R282). -/
def fatalAt (s : State) (p : Place) (org : BitVec 12) (k : Nat) (rid : BitVec 16) (cause : BitVec 16) (syl : Nat) (pc : Word)
    (tk : Nat) (val : Word) : State :=
  let root := s.faultRoot rid
  let ending : Bool := match s.region rid with | some r => r.phase = .ending | none => true
  if (cellarAt s p).frozen then (if ending then s else markEnding s root cause val true)
  else
    let places := faultPlaces s root
    let id := s.vault.nextId
    let x := syl * 2 ^ 18 + 1 * 2 ^ 16 + cause.toNat
    let rec' := mkRecord 0x3F k (s.tagOf rid) (cForm x pc tk)
    let own : Option Nat :=
      match p with
      | .core n => ((s.thread n k).filter (fun t => t.task.rid = rid)).map (fun t => t.tid)
      | .die _ => none
    let s := blockCore (freezeCellar s p rec' (some (pc.extractLsb' 5 29)) own id) p
    let cap : Capture :=
      { id := id, time := s.gtime, cause := cause, trapv := val, cls := 1, locked := s.bar.ptplock,
        origin := BitVec.ofNat 15 (k % 8 * 4096 + org.toNat), path := faultPath s root rid,
        tenants := (s.subtree root).map (fun r => r.tenant),
        manid := match s.region rid with | some r => r.manifest.getD 0 | none => 0,
        wanted := places.filter (fun q => q ≠ p), reached := [p], sections := [], tags := [], hasFull := true, rid := some root }
    let s := { s with vault := { s.vault with nextId := id + 1, taking := s.vault.taking ++ [cap] } }
    sendWave (markEnding s root cause val false) p org places

/-- A region-fatal fault found on core n for its slot k, with its TRAPV. A thread of the fault domain in that slot issues no
more. -/
def fatalFor (s : State) (n k : Nat) (rid : BitVec 16) (cause : BitVec 16) (syl : Nat) (pc : Word) (tk : Nat) (val : Word) :
    State :=
  let root := s.faultRoot rid
  let s := s.modThread n k (fun t => { t with life := { t.life with halted := t.life.halted || s.within root t.task.rid } })
  fatalAt s (.core n) (originOf n) k rid cause syl pc tk val

/-- The ORIGIN of a die's unit: 0 dispatch unit, 1 Ringmaster, 2 Storeroom, 3 management (R273). -/
def unitOrigin (d : BitVec 2) (u : Nat) : BitVec 12 := BitVec.ofNat 12 (d.toNat * 1024 + 31 * 32 + u)

/-- A region-fatal fault that a unit of a die finds (R273, R281). -/
def fatalUnit (s : State) (d : BitVec 2) (u : Nat) (rid : BitVec 16) (cause : BitVec 16) (val : Word) : State :=
  fatalAt s (.die d) (unitOrigin d u) 0 rid cause 0 0 0 val

/-- TRAPC: syllable, class and cause (R88). -/
def trapcWord (syl cls : Nat) (cause : BitVec 16) : Word := BitVec.ofNat 64 (syl % 8 * 2 ^ 21 + cls % 4 * 2 ^ 16 + cause.toNat)

/-- A PC as TRAPPC holds it: bits [47:5] (R88). -/
def pcField (pc : Word) : Word := BitVec.ofNat 64 (pc.toNat % 2 ^ 48 / 32 * 32)

/-- A thread's region-fatal fault; its trap registers hold the cause (R88, R250, R265, R281). -/
def detectFatal (s : State) (n k : Nat) (cause : BitVec 16) (syl : Nat) (val : Word) : State :=
  match s.thread n k with
  | some t =>
    let s := s.modThread n k (fun t => { t with
      ctl := { t.ctl with trapc := trapcWord syl 1 cause, trappc := pcField t.ctl.pc, trapv := val } })
    fatalFor s n k t.task.rid cause syl t.ctl.pc (s.domtick t) val
  | none =>
    match (s.core n).owner with
    | some rid => fatalFor s n k rid cause syl 0 0 val
    | none => s

/-! ### Causes (R250) -/

/-- The cause codes of R250. -/
def cILLEGAL : BitVec 16 := 0x0001
/-- PRIV (R250). -/
def cPRIV : BitVec 16 := 0x0002
/-- ALIGN (R250). -/
def cALIGN : BitVec 16 := 0x0003
/-- TIMING (R250). -/
def cTIMING : BitVec 16 := 0x0004
/-- SOFT (R250). -/
def cSOFT : BitVec 16 := 0x0005
/-- PREEMPT (R250). -/
def cPREEMPT : BitVec 16 := 0x0006
/-- WATCH (R250). -/
def cWATCH : BitVec 16 := 0x0007
/-- XLATE (R250). -/
def cXLATE : BitVec 16 := 0x0008
/-- ATOMIC_UNSUP (R250). -/
def cATOMIC : BitVec 16 := 0x0009
/-- EXEC (R250). -/
def cEXEC : BitVec 16 := 0x000A
/-- TRAP (R250). -/
def cTRAP : BitVec 16 := 0x000B
/-- DEST_ABSENT (R250). -/
def cABSENT : BitVec 16 := 0x000C
/-- ENGINE (R250). -/
def cENGINE : BitVec 16 := 0x0010
/-- ECC (R250). -/
def cECC : BitVec 16 := 0x0011

/-- Is a cause region-fatal for a thread (R250, R257)? -/
def isFatal (s : State) (t : Thread) (cause : BitVec 16) : Bool :=
  cause.toNat ≥ 0x10 || t.mode ≠ 0 || (match s.region t.task.rid with | some r => r.hvec = 0 | none => true) ||
    (t.timed && cause ≠ cPREEMPT && cause ≠ cTRAP)

/-! ### Soft errors and their injection (R266, R267) -/

/-- Does a translation cover an address? -/
def covers (x : Xlate) (pasid : BitVec 20) (va : Nat) : Bool := x.pasid = pasid && x.va / 2 ^ x.lg = va / 2 ^ x.lg

/-- The byte key that a translation gives an address (R187). -/
def xlateKey (x : Xlate) (va : Nat) : Nat :=
  let p := x.pa / 2 ^ x.lg * 2 ^ x.lg + va % 2 ^ x.lg
  if x.host then keyHost p else keyStack p

/-- A store's bytes with every bit written. -/
def plainBytes (key : Nat) (l : List Byte) : List (Nat × Byte × Byte) :=
  (l.zipIdx).map (fun e => (key + e.2, e.1, 0xFF))

/-- The word that an armed injection waits for, as a byte key: scratchpad, Storeroom data or tag, stack. -/
def injectedWord (s : State) : Option Nat :=
  let e := s.bar.errinj
  let target := e.extractLsb' 0 48
  if !e.getLsbD 63 || e.extractLsb' 58 2 = 3 then none
  else
    match (e.extractLsb' 60 3).toNat with
    | 0 => some (keyL (gCore (target.setWidth 64)) (gOff (target.setWidth 64)) / 8 * 8)
    | 1 => some (keyStack target.toNat / 8 * 8)
    | 2 => some (keyStack target.toNat / 8 * 8)
    | 4 => some (keyStack target.toNat / 8 * 8)
    | _ => none

/-- Does a range of bytes meet the armed word? -/
def meetsInjection (s : State) (key n : Nat) : Bool :=
  match injectedWord s with | some w => key < w + 8 && w < key + n | none => false

/-- The bits of the armed word that its injection inverts (R267). -/
def injectionMask (e : Word) : Word :=
  let b := (e.extractLsb' 52 6).toNat
  BitVec.ofNat 64 (2 ^ b) ||| (if e.extractLsb' 58 2 = 1 then BitVec.ofNat 64 (2 ^ ((b + 1) % 64)) else 0)

/-- Invert bits of the 64-bit word at a key. -/
def flipWord (m : List Host.Cell) (key : Nat) (mask : Word) : List Host.Cell :=
  ((leBytes mask.toNat 8).zipIdx).foldl (fun m e => Memory.write m (key + e.2) (Memory.read m (key + e.2) ^^^ e.1)) m

/-- The bits of the word at a key that written bytes replace. -/
def writtenBits (key : Nat) (l : List (Nat × Byte × Byte)) : Word :=
  l.foldl (fun w b => if key ≤ b.1 && b.1 < key + 8 then w ||| BitVec.ofNat 64 (b.2.2.toNat * 2 ^ (8 * (b.1 - key))) else w) 0

/-- A write that has been made takes the armed injection where it meets its word, which then stands with bits inverted; a
later write replaces some of them (R267). -/
def noteWrite (s : State) (l : List (Nat × Byte × Byte)) : State :=
  match injectedWord s with
  | none => s
  | some key =>
    if !(l.any (fun b => key ≤ b.1 && b.1 < key + 8)) then s
    else
      match s.bar.injected with
      | some m => { s with bar := { s.bar with injected := some (m &&& ~~~(writtenBits key l)) } }
      | none =>
        let m := injectionMask s.bar.errinj
        { s with mem := flipWord s.mem key m, bar := { s.bar with injected := some m } }

/-- An error-log entry in the next place of a die's ring; its syndrome is free (R267). -/
def logError (s : State) (d : BitVec 2) (addr : Word) (array ctx : Nat) (fixed : Bool) (rid : BitVec 16) : State :=
  let info := (Config.syndrome s.sched.fresh).toNat + (array + (if fixed then 8 else 0) + 16) * 2 ^ 16 + rid.toNat * 2 ^ 32 +
    ctx * 2 ^ 48
  s.tickFresh.modDie d (fun e => { e with
    errlog := assocSet e.errlog e.erridx.toNat ⟨BitVec.ofNat 64 s.gtime, addr, BitVec.ofNat 128 info⟩
    erridx := e.erridx + 1 })

/-- TRAPV of an ECC cause: array and address, at the places that ERRINJ gives them (DEDUCED: R250 names the two and no layout;
log entry 25). -/
def eccValue (array : Nat) (addr : Word) : Word := addr ||| BitVec.ofNat 64 (array * 2 ^ 60)

/-- Does a counter of a region lie in the line of a key, by a translation? -/
def poolLine (r : Region) (x : Xlate) (key : Nat) : Bool :=
  let first := xlateKey x (x.va / 2 ^ x.lg * 2 ^ x.lg)
  let line := key / 64 * 64
  let va := x.va / 2 ^ x.lg * 2 ^ x.lg + (line - first)
  x.pasid = r.pasid && first ≤ line && line < first + 2 ^ x.lg && va < r.pool.toNat + 8 * r.pooln && r.pool.toNat < va + 64

/-- The region whose counter pool holds the line of a key: of several that share a pool, the topmost (R18, R31, R266). -/
def poolOwner (s : State) (key : Nat) : Option Region :=
  (s.regions.filter (fun r => s.known.any (fun x => poolLine r x key))).foldl (fun (o : Option Region) r =>
    match o with | some q => if r.depth < q.depth then some r else some q | none => some r) none

/-- Memory as its SECDED delivers it to a reader: a word whose injected error is of one bit is corrected (R266). -/
def soundMem (s : State) : List Host.Cell :=
  match s.bar.injected, injectedWord s with
  | some m, some w => if s.bar.errinj.extractLsb' 58 2 = 0 then flipWord s.mem w m else s.mem
  | _, _ => s.mem

/-- A read of the armed word reports its error, once: log and ECC record. A single bit is repaired in place, a tag error is
device-fatal, and any other line outside the scratchpad stands poisoned; an error that is not corrected, tag errors apart, is answered
with its array and TRAPV (R266, R267). `ctx` is the entry's CTX, `own` the thread that reads, in a core; a die's unit reads
for none. -/
def detectError (s : State) (p : Place) (ctx : Nat) (own : Option Nat) (key len : Nat) : Option (Nat × Word) × State :=
  match s.bar.injected with
  | none => (none, s)
  | some m =>
    if !meetsInjection s key len then (none, s)
    else
      let e := s.bar.errinj
      let array := (e.extractLsb' 60 3).toNat
      let fixed : Bool := e.extractLsb' 58 2 = 0
      let addr : Word := (e.extractLsb' 0 48).setWidth 64
      let word := (injectedWord s).getD 0
      let low := array * 2 ^ 31 + (if fixed then 2 ^ 30 else 0)
      let s := { s with bar := { s.bar with errinj := e &&& ~~~((1 : Word) <<< 63), injected := none } }
      let pool := poolOwner s word
      let s :=
        match p with
        | .core n =>
          let rid := (s.core n).owner.getD 0
          recordCore (logError s (BitVec.ofNat 2 (dieOf n)) addr array ctx fixed rid) n 0x12 (ctx % 8) (s.tagOf rid)
            (aForm addr low) none own
        | .die d =>
          recordDie (logError s d addr array 0 fixed ((pool.map (fun r => r.rid)).getD 0)) d 0x12 0 (aForm addr low)
      if fixed then (none, { s with mem := flipWord s.mem word m })
      else if array = 2 then (none, s.schedule s.sched.clock (.fatalDetect 0 0 0x0020 (eccValue array addr)))
      else (some (array, eccValue array addr), if array = 0 then s else { s with poison := s.poison ++ [word / 64 * 64] })

/-- A read with its soft errors: one that is not corrected is a fatal ECC of the region placed on the core, for its
scratchpad, or of the region whose counter pool holds the line, whichever unit reads it (R266, R267). -/
def noteRead (s : State) (p : Place) (ctx : Nat) (own : Option Nat) (key len : Nat) : State :=
  let pool := poolOwner s ((injectedWord s).getD 0)
  match detectError s p ctx own key len with
  | (none, s) => s
  | (some (array, v), s) =>
    match p, pool with
    | .core n, _ =>
      if array = 0 then detectFatal s n (ctx % 8) cECC 0 v
      else match pool with | some r => fatalFor s n (ctx % 8) r.rid cECC 0 0 0 v | none => s
    | .die d, some r => if array = 0 then s else fatalUnit s d 2 r.rid cECC v
    | .die _, none => s

/-! ### Taking a trap (R250 to R257) -/

/-- The context tail of a slot, as a local offset (R255). -/
def tailOf (k : Nat) : Nat := 0x78000 + 0x1000 * k

/-- The kind code of a destination in the in-flight table (R256). -/
def kindCode (d : Dest) : Nat × Nat :=
  match d with
  | .x r => (0, r.toNat) | .y r => (1, r.toNat) | .v r => (2, r.toNat) | .p r => (3, r.toNat)
  | .m r => (4, r.toNat) | .port r => (5, r.toNat)

/-- Insert a result by visible turn, after those of the same turn (R256). -/
def insertFlight (f : Flight) (l : List Flight) : List Flight :=
  match l with
  | [] => [f]
  | g :: r => if f.rem < g.rem then f :: g :: r else g :: insertFlight f r

/-- The results of a thread in ascending visible turn, then issue order (R53, R256). -/
def sortFlights (l : List Flight) : List Flight := l.foldl (fun acc f => insertFlight f acc) []

/-- A table entry's value: the whole register as it would stand when the result lands after those before it, since the
table keeps no lane mask (R256; log entry 13). -/
def liftValues (g : Regs) (l : List Flight) : List (Flight × Vec) :=
  match l with
  | [] => []
  | f :: r =>
    let v := match f.dest with | .port _ => f.val &&& f.mask | d => blend (g.get d) f.val f.mask
    (f, v) :: liftValues (g.putMasked f.dest f.val f.mask) r

/-- The 80 bytes of an in-flight table entry (R256). -/
def tableEntry (e : Flight × Vec) : List Byte :=
  leBytes e.2.toNat 64 ++
    [1, BitVec.ofNat 8 (kindCode e.1.dest).1, BitVec.ofNat 8 (kindCode e.1.dest).2, BitVec.ofNat 8 e.1.rem,
      e.1.flags.setWidth 8] ++ List.replicate 11 0

/-- The 1,280 bytes of the table (R256). -/
def tableBytes (l : List (Flight × Vec)) : List Byte :=
  ((l.take 16).map tableEntry).flatten ++ List.replicate (80 * (16 - min 16 l.length)) 0

/-- WSTATE of a thread: a wait, or the turns of a WAIT count still owed (R253, R255). -/
def wstateOf (p : Pipe) : List Word :=
  let w (kind field : Nat) (a b : Word) : List Word := [BitVec.ofNat 64 (kind + field * 256), a, b]
  match p.wait with
  | .none => if p.waitLeft = 0 then [0, 0, 0] else w 1 p.waitLeft 0 0
  | .waitt pd x _ => w 2 pd.toNat x 0
  | .waita a b => w 3 0 a b
  | .waitb a b => w 4 0 a b
  | .waitmb mb n => w 5 mb.toNat (n.setWidth 64) 0
  | .waitk m => w 6 m.toNat 0 0
  | .seqwait pd i th => w 7 pd.toNat i th
  | .gbar => [0, 0, 0]
  | .eret _ => [0, 0, 0]

/-- The bytes of double words. -/
def wordsBytes (l : List Word) : List Byte := (l.map (fun w => leBytes w.toNat 8)).flatten

/-- The device writes bytes of a context tail (R255, R267). -/
def writeTail (s : State) (key : Nat) (l : List Byte) : State :=
  noteWrite { s with mem := Memory.writeBytes s.mem key l } (plainBytes key l)

/-- The turn from which a handler may issue: 24 clocks after the trap turn (R254). -/
def handlerClock (s : State) (n : Nat) : Nat := s.coreClock n + 24

/-- A thread enters its handler: results in flight are lifted, the tail's trap words, WSTATE and table are written, the
trap registers and the mode change, and the slot fetches the handler; what a freeze left undone of a bank conflict is held
(R62, R252 to R256). -/
def enterHandler (s : State) (n k : Nat) (t : Thread) (hvec : Word) (cause : BitVec 16) (syl : Nat) (val : Word) :
    State :=
  let lifted := liftValues t.regs (sortFlights t.pipe.flights)
  let base := keyL n (tailOf k)
  let pc := pcField t.ctl.pc
  let s := writeTail s (base + 0x860) (wordsBytes [trapcWord syl 0 cause, pc, val])
  let s := writeTail s (base + 0x880) (wordsBytes (wstateOf t.pipe))
  let s := writeTail s (base + 0x900) (tableBytes lifted)
  let t' := { t with
    ctl := { t.ctl with
      pc := hvec
      ths := (t.ctl.ths &&& ~~~(3 : Word)) ||| 1
      trapc := trapcWord syl 0 cause, trappc := pc, trapv := val
      trapif := BitVec.ofNat 64 (tailOf k + 0x900) }
    pipe := { t.pipe with
      flights := [], waitLeft := 0, wait := .none, watch := none, fetchAt := handlerClock s n
      stallLeft := 0, passes := [], heldStall := t.pipe.stallLeft, heldPasses := t.pipe.passes, owed := 0
      lifted := lifted.map (fun e => { e.1 with val := e.2 }) }
    life := { t.life with atBar := t.life.atBar || t.pipe.wait = .gbar } }
  s.setThread n k (some t')

/-- The records of a trap: PREEMPT or TRAP, and TIMING for that cause (R274). -/
def recordTrap (s : State) (n k : Nat) (t : Thread) (cause : BitVec 16) (syl : Nat) (val : Word) : State :=
  let s := if cause = cTIMING then recordThread s n k 0x18 0 t t.ctl.pc else s
  if cause = cPREEMPT then recordThread s n k 0x09 (val.toNat % 2 ^ 16) t t.ctl.pc
  else recordThread s n k 0x03 (syl * 2 ^ 18 + cause.toNat) t t.ctl.pc

/-- The thread in slot k of core n takes a trap in place of the bundle its PC names (R250 to R257). A fatal cause ends
its fault domain instead. -/
def takeTrap (s : State) (n k : Nat) (cause : BitVec 16) (syl : Nat) (val : Word) : State :=
  match s.thread n k with
  | none => s
  | some t =>
    if isFatal s t cause then
      detectFatal (if cause = cTIMING then recordThread s n k 0x18 0 t t.ctl.pc else s) n k cause syl val
    else
      let hvec := match s.region t.task.rid with | some r => r.hvec | none => 0
      recordTrap (enterHandler s n k t hvec cause syl val) n k t cause syl val

/-- The syllable or bundle being issued ends in this way. -/
def State.setIssue (s : State) (i : Issue) : State := { s with cur := { s.cur with issue := i } }

/-- A precise trap of the bundle being issued (R251). -/
def trapCur (s : State) (cause : BitVec 16) (syl : Nat) (val : Word) : State :=
  (takeTrap s s.cur.core s.cur.slot cause syl val).setIssue .trapped

/-- The slot holds its bundle (R48). -/
def hold (s : State) : State := s.setIssue .held

/-- A hold that traps TIMING in domain time (R70). -/
def holdOrTiming (s : State) (syl : Nat) : State :=
  match s.cth with
  | none => s
  | some t => if t.timed && t.mode = 0 then trapCur s cTIMING syl 0 else hold s

/-! ### Returning from a trap (R258) -/

/-- A table entry as a result: none for an unused one, an error for a malformed one. -/
def parseEntry (b : List Byte) (id : Nat) : Except Unit (Option Flight) :=
  let at' (i : Nat) : Nat := (b.getD i 0).toNat
  if at' 64 % 2 = 0 then .ok none
  else
    let kind := at' 65
    let num := at' 66
    let rem := at' 67
    let d : Option Dest :=
      match kind with
      | 0 => if num < 32 then some (.x (BitVec.ofNat 5 num)) else none
      | 1 => if num < 32 then some (.y (BitVec.ofNat 5 num)) else none
      | 2 => if num < 24 then some (.v (BitVec.ofNat 5 num)) else none
      | 3 => if num < 8 then some (.p (BitVec.ofNat 3 num)) else none
      | 4 => if num < 8 then some (.m (BitVec.ofNat 3 num)) else none
      | 5 => if 24 ≤ num && num ≤ 28 then some (.port (BitVec.ofNat 5 num)) else none
      | _ => none
    match d with
    | none => .error ()
    | some d =>
      if at' 64 ≠ 1 || rem = 0 || rem > 19 || at' 68 ≥ 32 || (b.drop 69).any (fun x => x ≠ 0) then .error ()
      else .ok (some ⟨id, d, BitVec.ofNat 512 (leValue (b.take 64)), BitVec.allOnes 512, rem, BitVec.ofNat 5 (at' 68)⟩)

/-- The lifted result that a table entry stands for: one with its register and value, else one with its register. -/
def liftedOf (f : Flight) (lifted : List Flight) : Option Flight :=
  (lifted.find? (fun p => p.dest = f.dest && p.val = f.val)).or (lifted.find? (fun p => p.dest = f.dest))

/-- A table entry as the result that lands: it writes the bits of the lifted result, and those that the handler changed, and a
push takes back its reservation (R53, R258; log entry 13). -/
def restoreFlight (f : Flight) (p : Option Flight) : Flight :=
  match p with
  | some p => { f with id := p.id, mask := p.mask ||| (f.val ^^^ p.val) }
  | none => f

/-- All 16 entries, in table order, each matched with its lifted result. -/
def parseTable (m : List Host.Cell) (a count id : Nat) (lifted : List Flight) : Except Unit (List Flight) :=
  match count with
  | 0 => .ok []
  | count + 1 =>
    match parseEntry (Memory.readBytes m a 80) id with
    | .error e => .error e
    | .ok none => parseTable m (a + 80) count id lifted
    | .ok (some f) =>
      let p := liftedOf f lifted
      match parseTable m (a + 80) count (id + 1) (match p with | some p => lifted.erase p | none => lifted) with
      | .error e => .error e
      | .ok l => .ok (restoreFlight f p :: l)

/-- WSTATE as a wait and turns owed; none when it is malformed (R255, R258). -/
def parseWstate (w : List Word) (g : Nat) : Option (Wait × Nat) :=
  let w0 := (w.getD 0 0).toNat
  let f := w0 / 256 % 2 ^ 40
  let a := w.getD 1 0
  let b := w.getD 2 0
  if w0 / 2 ^ 48 ≠ 0 then none
  else
    match w0 % 256 with
    | 0 => if f = 0 then some (.none, 0) else none
    | 1 => if a = 0 && b = 0 then some (.none, f) else none
    | 2 => if f < 8 && b = 0 then some (.waitt (BitVec.ofNat 3 f) a (a.toNat < g), 0) else none
    | 3 => if f = 0 then some (.waita a b, 0) else none
    | 4 => if f = 0 then some (.waitb a b, 0) else none
    | 5 => if f < 64 && a.toNat < 2 ^ 32 && b = 0 then some (.waitmb (BitVec.ofNat 6 f) (a.setWidth 32), 0) else none
    | 6 => if f < 128 && a = 0 && b = 0 then some (.waitk (BitVec.ofNat 7 f), 0) else none
    | 7 => if f < 8 then some (.seqwait (BitVec.ofNat 3 f) a b, 0) else none
    | _ => none

/-- ERET of the thread being issued, by its syllable's word: its table and WSTATE are reloaded, the mode becomes user and it resumes at
TRAPPC. A malformed table or WSTATE is region-fatal ILLEGAL (R250, R258, R343). The lifted results, the bank passes that a freeze left
undone and the resumed wait count from the turn in which the next bundle may issue: one turn, and the header WAIT or the bank
passes of ERET's own bundle, from here (R57). An uncorrectable error of the tail's words ends the fault domain (R266). -/
def returnFromTrap (s : State) (word : Word) : State :=
  let base := keyL s.cur.core (tailOf s.cur.slot)
  let s := (s.cth.map (fun t => noteRead s (.core s.cur.core) s.cur.slot (some t.tid) (base + 0x880) 1408)).getD s
  match s.cth with
  | none => s
  | some t =>
    let table := parseTable s.mem (base + 0x900) 16 s.sched.nextId t.pipe.lifted
    let words := [0x880, 0x888, 0x890].map (fun o => BitVec.ofNat 64 (Memory.readLE s.mem (base + o) 8))
    if t.life.halted then s.setIssue .trapped
    else match table, parseWstate words s.gtime with
    | .ok fl, some (w, turns) =>
      let own := max t.pipe.waitLeft t.pipe.stallLeft
      let s := writeTail { s with sched := { s.sched with nextId := s.sched.nextId + 16 } } (base + 0x880) (leBytes 0 8)
      let s := s.modCth (fun t => { t with
        ctl := { t.ctl with ths := t.ctl.ths &&& ~~~(3 : Word) }
        pipe := { t.pipe with
          flights := t.pipe.flights ++ fl.map (fun f => { f with rem := f.rem + 1 + own }), lifted := []
          stallLeft := own + t.pipe.heldStall
          passes := t.pipe.passes ++ List.replicate (own - t.pipe.passes.length) [] ++ t.pipe.heldPasses
          heldStall := 0, heldPasses := []
          wait := if t.life.atBar then .gbar else w
          waitLeft := turns, owed := own }
        life := { t.life with atBar := false } })
      let s := { s with cur := { s.cur with next := t.ctl.trappc } }
      let s := recordThread s s.cur.core s.cur.slot 0x04 fl.length t t.ctl.trappc
      checkResume s t.task.rid
    | _, _ => (detectFatal s s.cur.core s.cur.slot cILLEGAL 6 word).setIssue .trapped

end Sys2Proof.Machine
end

