-- ==== Sys2Proof/Machine/Flags.lean ====
section
/-! DEFINITION. The sticky flags and the rounding of an exact value to a floating-point format, with the flags that the
rounding raises (R87, R124, R128 to R131). -/

namespace Sys2Proof.Machine

/-- No flag. -/
def fNone : BitVec 5 := 0
/-- Inexact: THS bit 8 (R87). -/
def fNX : BitVec 5 := 1
/-- Underflow: THS bit 9 (R87). -/
def fUF : BitVec 5 := 2
/-- Overflow: THS bit 10 (R87). -/
def fOF : BitVec 5 := 4
/-- Division by zero: THS bit 11 (R87). -/
def fDZ : BitVec 5 := 8
/-- Invalid operation: THS bit 12 (R87). -/
def fNV : BitVec 5 := 16

/-- A flag if a condition holds. -/
def flagIf (c : Bool) (f : BitVec 5) : BitVec 5 := if c then f else 0

/-- A floating-point format: exponent bits, fraction bits, whether it has infinities (R124). -/
structure Fmt where
  eb : Nat
  fb : Nat
  hasInf : Bool
  deriving DecidableEq, Repr

/-- F32 (R124). -/
def fmtF32 : Fmt := ⟨8, 23, true⟩
/-- BF16 (R124). -/
def fmtBF16 : Fmt := ⟨8, 7, true⟩
/-- F16 (R124). -/
def fmtF16 : Fmt := ⟨5, 10, true⟩
/-- E4M3 (R124). -/
def fmtE4M3 : Fmt := ⟨4, 3, false⟩
/-- E5M2 (R124). -/
def fmtE5M2 : Fmt := ⟨5, 2, true⟩

/-- The exponent bias. -/
def Fmt.bias (f : Fmt) : Nat := 2 ^ (f.eb - 1) - 1

/-- The exponent of the minimum normal. -/
def Fmt.emin (f : Fmt) : Int := 1 - (f.bias : Int)

/-- The code of +infinity, or what would be it. -/
def Fmt.infCode (f : Fmt) : Nat := (2 ^ f.eb - 1) * 2 ^ f.fb

/-- The code of the largest finite value (R124, R125). -/
def Fmt.maxCode (f : Fmt) : Nat := if f.hasInf then f.infCode - 1 else 2 ^ (f.eb + f.fb) - 2

/-- The canonical NaN (R124). -/
def Fmt.nanCode (f : Fmt) : Nat := if f.hasInf then f.infCode + 2 ^ (f.fb - 1) else 2 ^ (f.eb + f.fb) - 1

/-- The sign bit's weight. -/
def Fmt.signBit (f : Fmt) : Nat := 2 ^ (f.eb + f.fb)

/-- A code with a sign. -/
def Fmt.signed (f : Fmt) (neg : Bool) (code : Nat) : Nat := if neg then f.signBit + code else code

/-- An infinite result: the format's infinity, or the canonical NaN where it has none (R129). -/
def Fmt.infinite (f : Fmt) (neg : Bool) : Nat := if f.hasInf then f.signed neg f.infCode else f.nanCode

/-- Does a magnitude round away from zero: direction `rm` (0 nearest even, 1 zero, 2 down, 3 up), sign, last kept bit
odd, and the dropped part compared with one half and with zero (R128)? -/
def roundsUp (rm : Nat) (neg odd overHalf isHalf some' : Bool) : Bool :=
  match rm with
  | 0 => overHalf || (isHalf && odd)
  | 1 => false
  | 2 => neg && some'
  | _ => !neg && some'

/-- Round m × 2^e, or a value strictly between it and (m + 1) × 2^e when `sticky`, to a multiple of 2^q: the multiple and
whether the rounding was inexact (R128). -/
def roundAt (rm : Nat) (neg : Bool) (m : Nat) (e q : Int) (sticky : Bool) : Nat × Bool :=
  if q ≤ e then (m * 2 ^ (e - q).toNat, sticky)
  else
    let sh := (q - e).toNat
    let n := m / 2 ^ sh
    let r := m % 2 ^ sh
    let half := 2 ^ (sh - 1)
    let overHalf := r > half || (r = half && sticky)
    let isHalf := r = half && !sticky
    let some' := r ≠ 0 || sticky
    (if roundsUp rm neg (n % 2 = 1) overHalf isHalf some' then n + 1 else n, some')

/-- Is a value with leading exponent `lead` tiny: rounded to p bits with an unbounded exponent, below the minimum
normal (R130)? -/
def isTiny (f : Fmt) (rm : Nat) (neg : Bool) (m : Nat) (e lead : Int) (sticky : Bool) : Bool :=
  if lead ≥ f.emin then false
  else if lead < f.emin - 1 then true
  else (roundAt rm neg m e (lead - f.fb) sticky).1 < 2 ^ (f.fb + 1)

/-- The result of an overflow and of every magnitude beyond the largest finite value (R129). -/
def overflowCode (f : Fmt) (rm : Nat) (neg : Bool) : Nat :=
  match rm with
  | 0 => f.infinite neg
  | 1 => f.signed neg f.maxCode
  | 2 => if neg then f.infinite true else f.maxCode
  | _ => if neg then f.signed true f.maxCode else f.infinite false

/-- The code and flags of an exact value rounded once to a format (R128 to R130). -/
def roundTo (f : Fmt) (rm : Nat) (neg : Bool) (m : Nat) (e : Int) (sticky : Bool) : Nat × BitVec 5 :=
  if m = 0 then (f.signed neg 0, fNone)
  else
    let lead : Int := e + (Nat.log2 m : Int)
    let q := (if lead < f.emin then f.emin else lead) - f.fb
    let (n, inexact) := roundAt rm neg m e q sticky
    let code := if n < 2 ^ f.fb then n else (q + f.fb + f.bias).toNat * 2 ^ f.fb + (n - 2 ^ f.fb)
    if code > f.maxCode then (overflowCode f rm neg, fOF ||| fNX)
    else (f.signed neg code, flagIf inexact fNX ||| flagIf (inexact && isTiny f rm neg m e lead sticky) fUF)

end Sys2Proof.Machine
end

