-- ==== Sys2Proof/Machine/Float.lean ====
section
/-! DEFINITION. Floating-point arithmetic on codes of a format: exact values, then one rounding (R124 to R135). -/

namespace Sys2Proof.Machine

/-- What a code stands for: a NaN, an infinity, or ±m × 2^e (R125, R126). -/
inductive FVal
  | nan (signalling : Bool)
  | inf (neg : Bool)
  | fin (neg : Bool) (m : Nat) (e : Int)
  deriving DecidableEq, Repr

/-- The value of a code (R125, R126). -/
def Fmt.decode (f : Fmt) (c : Nat) : FVal :=
  let neg := c / f.signBit % 2 = 1
  let ex := c / 2 ^ f.fb % 2 ^ f.eb
  let fr := c % 2 ^ f.fb
  if f.hasInf && ex = 2 ^ f.eb - 1 then
    if fr = 0 then .inf neg else .nan (fr / 2 ^ (f.fb - 1) = 0)
  else if !f.hasInf && ex = 2 ^ f.eb - 1 && fr = 2 ^ f.fb - 1 then .nan false
  else if ex = 0 then .fin neg fr (f.emin - f.fb)
  else .fin neg (2 ^ f.fb + fr) ((ex : Int) - f.bias - f.fb)

/-- Is it a NaN? -/
def FVal.isNan (v : FVal) : Bool := match v with | .nan _ => true | _ => false

/-- Is it a signalling NaN (R126)? -/
def FVal.isSnan (v : FVal) : Bool := match v with | .nan s => s | _ => false

/-- The sign of a value that is no NaN. -/
def FVal.neg (v : FVal) : Bool := match v with | .nan _ => false | .inf n => n | .fin n _ _ => n

/-- A value with its sign inverted. -/
def FVal.negate (v : FVal) : FVal :=
  match v with | .nan s => .nan s | .inf n => .inf (!n) | .fin n m e => .fin (!n) m e

/-- The canonical NaN, with NV where a condition holds (R126, R131). -/
def nanResult (f : Fmt) (nv : Bool) : Nat × BitVec 5 := (f.nanCode, flagIf nv fNV)

/-- A finite value as a signed integer multiple of 2^e, for e at most its own exponent. -/
def scaled (neg : Bool) (m : Nat) (e0 e : Int) : Int :=
  let v : Int := m * 2 ^ (e0 - e).toNat
  if neg then -v else v

/-- The exact sum of two finite values, rounded; R130 gives the sign of a zero. -/
def addFin (f : Fmt) (rm : Nat) (n1 : Bool) (m1 : Nat) (e1 : Int) (n2 : Bool) (m2 : Nat) (e2 : Int) : Nat × BitVec 5 :=
  let e := min e1 e2
  let t := scaled n1 m1 e1 e + scaled n2 m2 e2 e
  if t = 0 then (f.signed (if n1 = n2 then n1 else rm = 2) 0, fNone)
  else roundTo f rm (t < 0) t.natAbs e false

/-- Addition (R347). -/
def fAdd (f : Fmt) (rm a b : Nat) : Nat × BitVec 5 :=
  match f.decode a, f.decode b with
  | .nan s, v => nanResult f (s || v.isSnan)
  | _, .nan s => nanResult f s
  | .inf n, .inf n' => if n = n' then (f.infinite n, fNone) else nanResult f true
  | .inf n, _ => (f.infinite n, fNone)
  | _, .inf n => (f.infinite n, fNone)
  | .fin n1 m1 e1, .fin n2 m2 e2 => addFin f rm n1 m1 e1 n2 m2 e2

/-- The code with its sign inverted (R127). -/
def fNegBits (f : Fmt) (a : Nat) : Nat :=
  if a / f.signBit % 2 = 1 then a % f.signBit else f.signBit + a % f.signBit

/-- The code with its sign cleared (R127). -/
def fAbsBits (f : Fmt) (a : Nat) : Nat := a % f.signBit

/-- Subtraction (R347). -/
def fSub (f : Fmt) (rm a b : Nat) : Nat × BitVec 5 := fAdd f rm a (fNegBits f b)

/-- Multiplication (R347). -/
def fMul (f : Fmt) (rm a b : Nat) : Nat × BitVec 5 :=
  match f.decode a, f.decode b with
  | .nan s, v => nanResult f (s || v.isSnan)
  | _, .nan s => nanResult f s
  | .inf n, .inf n' => (f.infinite (n ^^ n'), fNone)
  | .inf n, .fin n' m _ => if m = 0 then nanResult f true else (f.infinite (n ^^ n'), fNone)
  | .fin n m _, .inf n' => if m = 0 then nanResult f true else (f.infinite (n ^^ n'), fNone)
  | .fin n1 m1 e1, .fin n2 m2 e2 => roundTo f rm (n1 ^^ n2) (m1 * m2) (e1 + e2) false

/-- d + a × b, or d − a × b when `neg`, rounded once (R353). -/
def fFma (f : Fmt) (rm : Nat) (neg : Bool) (d a b : Nat) : Nat × BitVec 5 :=
  let vd := f.decode d
  let va := if neg then (f.decode a).negate else f.decode a
  let vb := f.decode b
  let snan := vd.isSnan || va.isSnan || vb.isSnan
  let addend (n : Bool) : Nat × BitVec 5 :=   -- an infinite product of sign n
    match vd with
    | .nan s => nanResult f s
    | .inf n' => if n = n' then (f.infinite n, fNone) else nanResult f true
    | .fin .. => (f.infinite n, fNone)
  match va, vb with
  | .nan _, _ => nanResult f snan
  | _, .nan _ => nanResult f snan
  | .inf n, .inf n' => addend (n ^^ n')
  | .inf n, .fin n' m _ => if m = 0 then nanResult f true else addend (n ^^ n')
  | .fin n m _, .inf n' => if m = 0 then nanResult f true else addend (n ^^ n')
  | .fin n1 m1 e1, .fin n2 m2 e2 =>
    match vd with
    | .nan s => nanResult f s
    | .inf n => (f.infinite n, fNone)
    | .fin nd md ed => addFin f rm nd md ed (n1 ^^ n2) (m1 * m2) (e1 + e2)

/-- The exact quotient of finite non-zero values, rounded. -/
def divFin (f : Fmt) (rm : Nat) (neg : Bool) (m1 : Nat) (e1 : Int) (m2 : Nat) (e2 : Int) : Nat × BitVec 5 :=
  let k := f.fb + 5 + Nat.log2 m2
  let num := m1 * 2 ^ k
  roundTo f rm neg (num / m2) (e1 - e2 - k) (num % m2 ≠ 0)

/-- Division (R351). -/
def fDiv (f : Fmt) (rm a b : Nat) : Nat × BitVec 5 :=
  match f.decode a, f.decode b with
  | .nan s, v => nanResult f (s || v.isSnan)
  | _, .nan s => nanResult f s
  | .inf _, .inf _ => nanResult f true
  | .inf n, .fin n' _ _ => (f.infinite (n ^^ n'), fNone)
  | .fin n _ _, .inf n' => (f.signed (n ^^ n') 0, fNone)
  | .fin n1 m1 e1, .fin n2 m2 e2 =>
    if m2 = 0 then (if m1 = 0 then nanResult f true else (f.infinite (n1 ^^ n2), fDZ))
    else if m1 = 0 then (f.signed (n1 ^^ n2) 0, fNone)
    else divFin f rm (n1 ^^ n2) m1 e1 m2 e2

/-- The integer square root of n < 4^fuel. -/
def isqrt (fuel n : Nat) : Nat :=
  match fuel with
  | 0 => 0
  | fuel + 1 =>
    let r := 2 * isqrt fuel (n / 4)
    if (r + 1) * (r + 1) ≤ n then r + 1 else r

/-- A finite non-zero value with an even exponent. -/
def evenExp (m : Nat) (e : Int) : Nat × Int := if e % 2 = 0 then (m, e) else (2 * m, e - 1)

/-- The square root of a positive finite value, rounded. -/
def sqrtFin (f : Fmt) (rm m : Nat) (e : Int) : Nat × BitVec 5 :=
  let (m, e) := evenExp m e
  let k := f.fb + 4
  let n := m * 2 ^ (2 * k)
  let r := isqrt (Nat.log2 n / 2 + 1) n
  roundTo f rm false r (e / 2 - k) (r * r ≠ n)

/-- The reciprocal square root of a positive finite value, rounded. -/
def rsqrtFin (f : Fmt) (rm m : Nat) (e : Int) : Nat × BitVec 5 :=
  let (m, e) := evenExp m e
  let k := f.fb + 5 + Nat.log2 m
  let n := 2 ^ (2 * k) / m
  let r := isqrt (Nat.log2 n / 2 + 1) n
  roundTo f rm false r (-(e / 2) - k) (r * r * m ≠ 2 ^ (2 * k))

/-- The square root (R355). -/
def fSqrt (f : Fmt) (rm a : Nat) : Nat × BitVec 5 :=
  match f.decode a with
  | .nan s => nanResult f s
  | .inf n => if n then nanResult f true else (f.infinite false, fNone)
  | .fin n m e =>
    if m = 0 then (f.signed n 0, fNone) else if n then nanResult f true else sqrtFin f rm m e

/-- The reciprocal square root (R355). -/
def fRsqrt (f : Fmt) (rm a : Nat) : Nat × BitVec 5 :=
  match f.decode a with
  | .nan s => nanResult f s
  | .inf n => if n then nanResult f true else (f.signed false 0, fNone)
  | .fin n m e =>
    if m = 0 then (f.infinite n, fDZ) else if n then nanResult f true else rsqrtFin f rm m e

/-- The reciprocal (R420). -/
def fRcp (f : Fmt) (rm a : Nat) : Nat × BitVec 5 :=
  match f.decode a with
  | .nan s => nanResult f s
  | .inf n => (f.signed n 0, fNone)
  | .fin n m e => if m = 0 then (f.infinite n, fDZ) else divFin f rm n 1 0 m e

/-- Is a below b, by value, -0 equal to +0; neither a NaN (R132)? -/
def fLess (a b : FVal) : Bool :=
  match a, b with
  | .inf n, .inf n' => n && !n'
  | .inf n, _ => n
  | _, .inf n => !n
  | .fin n1 m1 e1, .fin n2 m2 e2 =>
    let e := min e1 e2
    scaled n1 m1 e1 e < scaled n2 m2 e2 e
  | _, _ => false

/-- Are two values equal, -0 equal to +0; neither a NaN (R132)? -/
def fEqual (a b : FVal) : Bool := !(fLess a b) && !(fLess b a)

/-- EQ, with NV for a signalling NaN (R132). -/
def fEq (f : Fmt) (a b : Nat) : Bool × BitVec 5 :=
  let va := f.decode a
  let vb := f.decode b
  (!(va.isNan || vb.isNan) && fEqual va vb, flagIf (va.isSnan || vb.isSnan) fNV)

/-- LT, with NV for any NaN (R132). -/
def fLt (f : Fmt) (a b : Nat) : Bool × BitVec 5 :=
  let va := f.decode a
  let vb := f.decode b
  (!(va.isNan || vb.isNan) && fLess va vb, flagIf (va.isNan || vb.isNan) fNV)

/-- LE, with NV for any NaN (R132). -/
def fLe (f : Fmt) (a b : Nat) : Bool × BitVec 5 :=
  let va := f.decode a
  let vb := f.decode b
  (!(va.isNan || vb.isNan) && !(fLess vb va), flagIf (va.isNan || vb.isNan) fNV)

/-- UN, with NV for a signalling NaN (R132). -/
def fUn (f : Fmt) (a b : Nat) : Bool × BitVec 5 :=
  let va := f.decode a
  let vb := f.decode b
  (va.isNan || vb.isNan, flagIf (va.isSnan || vb.isSnan) fNV)

/-- Is a at or below b with -0 below +0; neither a NaN (R133)? -/
def fOrdered (a b : FVal) : Bool := fLess a b || (fEqual a b && (a.neg || !b.neg))

/-- The lesser, or the greater when `max` (R133). -/
def fMinMax (f : Fmt) (max : Bool) (a b : Nat) : Nat × BitVec 5 :=
  let va := f.decode a
  let vb := f.decode b
  let fl := flagIf (va.isSnan || vb.isSnan) fNV
  if va.isNan && vb.isNan then (f.nanCode, fl)
  else if va.isNan then (b, fl)
  else if vb.isNan then (a, fl)
  else (if fOrdered va vb ^^ max then a else b, fl)

/-- The class of a code (R133). -/
def fClass (f : Fmt) (a : Nat) : Nat :=
  match f.decode a with
  | .nan s => if s then 8 else 9
  | .inf n => if n then 0 else 7
  | .fin n m _ =>
    if m = 0 then (if n then 3 else 4)
    else if m < 2 ^ f.fb then (if n then 2 else 5)
    else (if n then 1 else 6)

/-- An exact integer rounded to a format (R134). -/
def intToF (f : Fmt) (rm : Nat) (v : Int) : Nat × BitVec 5 := roundTo f rm (v < 0) v.natAbs 0 false

/-- A finite value rounded to an integer, with whether it was inexact (R134). -/
def finToInt (rm : Nat) (n : Bool) (m : Nat) (e : Int) : Int × Bool :=
  let (q, inexact) := roundAt rm n m e 0 false
  (if n then -(q : Int) else q, inexact)

/-- A float as an integer in [lo, hi]: below, above and NaN results as given, each with NV (R134). -/
def fToInt (f : Fmt) (rm a : Nat) (lo hi below above nan : Int) : Int × BitVec 5 :=
  match f.decode a with
  | .nan _ => (nan, fNV)
  | .inf n => (if n then below else above, fNV)
  | .fin n m e =>
    let (v, inexact) := finToInt rm n m e
    if v < lo then (below, fNV) else if v > hi then (above, fNV) else (v, flagIf inexact fNX)

/-- A float converted to another format (R134). -/
def fToF (f g : Fmt) (rm a : Nat) (sat : Bool) : Nat × BitVec 5 :=
  match f.decode a with
  | .nan s => nanResult g s
  | .inf n => (if sat then g.signed n g.maxCode else g.infinite n, fNone)
  | .fin n m e =>
    let (c, fl) := roundTo g rm n m e false
    (if sat && fl &&& fOF ≠ 0 then g.signed n g.maxCode else c, fl)

/-- The float format of an element type, F32 for the integer types, which have none. -/
def fmtOf (t : Ety) : Fmt :=
  match t with
  | .bf16 => fmtBF16 | .f16 => fmtF16 | .e4m3 => fmtE4M3 | .e5m2 => fmtE5M2 | _ => fmtF32

end Sys2Proof.Machine
end

