-- ==== Sys2Proof/Machine/Operands.lean ====
section
/-! DEFINITION. Operand forms: guards, immediates and the literal, effective addresses, lanes, and the shared shapes of
scalar and vector syllables (R79, R100, R323, R324, R356, R402). -/

namespace Sys2Proof.Machine

/-- Syllable numbers of TRAPC.SYL (R88). -/
def sylX : Nat := 1
/-- Y. -/
def sylY : Nat := 2
/-- VA. -/
def sylVA : Nat := 3
/-- VB. -/
def sylVB : Nat := 4
/-- L. -/
def sylL : Nat := 5
/-- C. -/
def sylC : Nat := 6
/-- E. -/
def sylE : Nat := 7

/-- The literal in use: IMM12 = 0x800 or OFF7 = 0b100_0000 in a bundle with LIT = 1 (R100). -/
def litOr (s : State) (uses : Bool) (lit plain : Word) : Word :=
  if s.cur.lit.isSome && uses then lit else plain

/-- The literal sign-extended (R100). -/
def litWord (s : State) : Word := (s.cur.lit.getD 0).signExtend 64

/-- An I-form immediate (R324). -/
def immOf (s : State) (imm : BitVec 12) : Word := litOr s (imm = 0x800) (litWord s) (imm.signExtend 64)

/-- A shift amount of an I form; the literal where IMM12 = 0x800 (R393). -/
def shiftOf (s : State) (imm : BitVec 12) : Nat := (litOr s (imm = 0x800) (litWord s) (imm.setWidth 64)).toNat

/-- The effective address of a plain offset form (R356). -/
def eaOf (s : State) (t : Thread) (a : Reg) (off : BitVec 7) (scale : Nat) : Word :=
  t.regs.getX a + litOr s (off = 0x40) (litWord s) (off.signExtend 64 * BitVec.ofNat 64 scale)

/-- Run a syllable of the issuing thread when its predicate guard holds (R79). -/
def guarded (s : State) (g : Guard) (f : Thread → State) : State :=
  match s.cth with
  | none => s
  | some t => if guardHolds t.regs g then f t else s

/-- All bits of a result. -/
def allBits : Vec := BitVec.allOnes 512

/-- A scalar syllable: a 64-bit result and its flags, landing after `lat` turns (R323, R325). -/
def scalarOp (s : State) (d : Dest) (lat : Nat) (g : Guard) (f : Thread → Word × BitVec 5) : State :=
  guarded s g (fun t => pushFlight s d ((f t).1.setWidth 512) allBits lat (f t).2)

/-- An integer scalar syllable, which raises no flag. -/
def intOp (s : State) (d : Dest) (lat : Nat) (g : Guard) (f : Thread → Word) : State :=
  scalarOp s d lat g (fun t => (f t, fNone))

/-- A syllable that writes a predicate. -/
def predOp (s : State) (pd : BitVec 3) (lat : Nat) (g : Guard) (f : Thread → Bool × BitVec 5) : State :=
  guarded s g (fun t => pushFlight s (.p pd) (if (f t).1 then 1 else 0) allBits lat (f t).2)

/-- An F32 source: bits [31:0] (R77). -/
def f32Of (w : Word) : Nat := w.toNat % 2 ^ 32

/-- An F32 result: bits [63:32] zero (R77). -/
def f32Word (r : Nat × BitVec 5) : Word × BitVec 5 := (BitVec.ofNat 64 r.1, r.2)

/-! ### Lanes (R78, R103) -/

/-- The lane width of an element type in bits. -/
def laneBits (t : Ety) : Nat :=
  match t with
  | .i8 => 8 | .i16 => 16 | .i32 => 32 | .f32 => 32 | .bf16 => 16 | .f16 => 16 | .e4m3 => 8 | .e5m2 => 8

/-- The lanes of an element type (R103). -/
def laneCount (t : Ety) : Nat :=
  match t with
  | .i8 => 64 | .i16 => 32 | .i32 => 16 | .f32 => 16 | .bf16 => 32 | .f16 => 32 | .e4m3 => 64 | .e5m2 => 64

/-- Lane i of width w. -/
def laneOf (w : Nat) (v : Vec) (i : Nat) : Nat := v.toNat / 2 ^ (w * i) % 2 ^ w

/-- A lane read as two's complement. -/
def signedLane (w x : Nat) : Int := if x < 2 ^ (w - 1) then x else (x : Int) - 2 ^ w

/-- An integer taken modulo 2^w. -/
def wrapLane (w : Nat) (x : Int) : Nat := (x % (2 ^ w : Nat)).toNat

/-- A vector from its lanes, lane 0 first. -/
def joinLanes (w : Nat) (l : List Nat) : Nat :=
  match l with
  | [] => 0
  | x :: l => x % 2 ^ w + 2 ^ w * joinLanes w l

/-- A 512-bit value from its lanes. -/
def ofLanes (w : Nat) (l : List Nat) : Vec := BitVec.ofNat 512 (joinLanes w l)

/-- Does a lane guard enable lane i (R79)? -/
def laneOn (g : Regs) (c : Guard) (i : Nat) : Bool := (g.getM c.g).getLsbD i ^^ c.n

/-- The bits of n lanes of width w that a guard enables. -/
def laneMask (g : Regs) (c : Guard) (w n : Nat) : Vec :=
  ofLanes w ((List.range n).map (fun i => if laneOn g c i then 2 ^ w - 1 else 0))

/-- The OR of the flags of the enabled lanes (R131). -/
def laneFlags (g : Regs) (c : Guard) (l : List (Nat × BitVec 5)) : BitVec 5 :=
  (l.zipIdx).foldl (fun acc e => if laneOn g c e.2 then acc ||| e.1.2 else acc) 0

/-- A vector syllable may issue when its pops find entries and its push finds room (R81). -/
def portsReady (s : State) (t : Thread) (srcs : List Reg) (d : Option Reg) : Bool :=
  srcs.all (popReady s) && (match d with | some r => pushReady s t r | none => true)

/-- The guard G = 0 with N = 1, which never holds (R101). -/
def Guard.never (g : Guard) : Bool := g.g = 0 && g.n

/-- The guard of a syllable without one. -/
def Guard.always : Guard := ⟨0, false⟩

/-- Run a vector syllable once its ports are ready; otherwise the slot holds, or traps TIMING in domain time
(R70, R81). A lane mask never suppresses a pop or a push; the guard that never holds leaves the syllable without effect
(R101). -/
def withPorts (s : State) (syl : Nat) (g : Guard) (srcs : List Reg) (d : Option Reg) (f : State → Thread → State) : State :=
  match s.cth with
  | none => s
  | some t => if Guard.never g then s else if portsReady s t srcs d then f (srcs.foldl popPort s) t else holdOrTiming s syl

/-- A vector syllable with n result lanes of width w (R402, R403). -/
def vectorOp (s : State) (syl : Nat) (srcs : List Reg) (d : Reg) (w n lat : Nat) (g : Guard)
    (f : State → Thread → Nat → Nat × BitVec 5) : State :=
  withPorts s syl g srcs (some d) (fun s t =>
    let l := (List.range n).map (f s t)
    pushFlight s (vreg d) (ofLanes w (l.map (fun e => e.1))) (laneMask t.regs g w n) lat (laneFlags t.regs g l))

/-- A vector syllable of one element type without flags: lane i from lane i of A and of B. -/
def laneOp2 (s : State) (syl : Nat) (et : Ety) (d a b : Reg) (lat : Nat) (g : Guard) (f : Nat → Nat → Nat) : State :=
  let w := laneBits et
  vectorOp s syl [a, b] d w (laneCount et) lat g (fun s t i =>
    (f (laneOf w (vecOf s t a) i) (laneOf w (vecOf s t b) i), fNone))

/-- A vector syllable of one element type with flags, by the rounding mode: lane i from lane i of A and of B. -/
def floatOp2 (s : State) (et : Ety) (d a b : Reg) (lat : Nat) (g : Guard) (f : Fmt → Nat → Nat → Nat → Nat × BitVec 5) :
    State :=
  let w := laneBits et
  vectorOp s sylVA [a, b] d w (laneCount et) lat g (fun s t i =>
    f (fmtOf et) t.rm (laneOf w (vecOf s t a) i) (laneOf w (vecOf s t b) i))

/-- A unary vector syllable: lane i from lane i of A. -/
def laneOp1 (s : State) (syl : Nat) (et : Ety) (d a : Reg) (lat : Nat) (g : Guard)
    (f : Thread → Nat → Nat × BitVec 5) : State :=
  let w := laneBits et
  vectorOp s syl [a] d w (laneCount et) lat g (fun s t i => f t (laneOf w (vecOf s t a) i))

end Sys2Proof.Machine
end

