-- ==== Sys2Proof/Machine/ScalarInt.lean ====
section
/-! DEFINITION. Meanings of the integer, compare, select and move syllables of slots X and Y (R105, R323 to R447). -/

namespace Sys2Proof.Machine

/-- What a meaning answers. -/
abbrev Result := Host.Outcome State Fault Refusal

/-- The syllable number of a cluster. -/
def Cl.syl (cl : Cl) : Nat := match cl with | .x => sylX | .y => sylY

/-- A two-source integer syllable. -/
def intOp2 (s : State) (cl : Cl) (d a b : Reg) (lat : Nat) (g : Guard) (f : Word → Word → Word) : State :=
  intOp s (Cl.reg cl d) lat g (fun t => f (t.regs.getS cl a) (t.regs.getS cl b))

/-- An integer syllable with an immediate (R324). -/
def intOpI (s : State) (cl : Cl) (d a : Reg) (imm : BitVec 12) (lat : Nat) (g : Guard) (f : Word → Word → Word) : State :=
  intOp s (Cl.reg cl d) lat g (fun t => f (t.regs.getS cl a) (immOf s imm))

/-- A one-source integer syllable. -/
def intOp1 (s : State) (cl : Cl) (d a : Reg) (g : Guard) (f : Word → Word) : State :=
  intOp s (Cl.reg cl d) 1 g (fun t => f (t.regs.getS cl a))

/-- An immediate shift: an amount out of 0 to 63 traps ILLEGAL (R100, R393). -/
def shiftOpI (s : State) (i : Instr) (cl : Cl) (d a : Reg) (imm : BitVec 12) (g : Guard) (f : Word → Nat → Word) : State :=
  if shiftOf s imm < 64 then intOp s (Cl.reg cl d) 1 g (fun t => f (t.regs.getS cl a) (shiftOf s imm))
  else trapCur s cILLEGAL (Cl.syl cl) (BitVec.ofNat 64 ((encodeWord i).getD 0))

/-- The amount of a register shift: b[5:0] (R393). -/
def amount (b : Word) : Nat := b.toNat % 64

/-- The number of 1 bits of a value below 2^n. -/
def countOnes (n v : Nat) : Nat :=
  match n with
  | 0 => 0
  | n + 1 => v % 2 + countOnes n (v / 2)

/-- The number of zero bits below the lowest 1, at most n. -/
def countTrailing (n v : Nat) : Nat :=
  match n with
  | 0 => 0
  | n + 1 => if v % 2 = 1 then 0 else 1 + countTrailing n (v / 2)

/-- The bits of v in reverse order over n bits. -/
def reverseBits (n v : Nat) : Nat :=
  match n with
  | 0 => 0
  | n + 1 => v % 2 * 2 ^ n + reverseBits n (v / 2)

/-- ADD: d := (a + b) mod 2^64 (R326). -/
def execAdd (cl : Cl) (d a b : Reg) (g : Guard) (s : State) : Result := .next (intOp2 s cl d a b 1 g (· + ·))

/-- ADDI (R326). -/
def execAddi (cl : Cl) (d a : Reg) (imm : BitVec 12) (g : Guard) (s : State) : Result :=
  .next (intOpI s cl d a imm 1 g (· + ·))

/-- SUB (R401). -/
def execSub (cl : Cl) (d a b : Reg) (g : Guard) (s : State) : Result := .next (intOp2 s cl d a b 1 g (· - ·))

/-- AND (R327). -/
def execAnd (cl : Cl) (d a b : Reg) (g : Guard) (s : State) : Result := .next (intOp2 s cl d a b 1 g (· &&& ·))

/-- ANDN: a and (not b) (R327). -/
def execAndn (cl : Cl) (d a b : Reg) (g : Guard) (s : State) : Result :=
  .next (intOp2 s cl d a b 1 g (fun x y => x &&& ~~~y))

/-- ANDI (R327). -/
def execAndi (cl : Cl) (d a : Reg) (imm : BitVec 12) (g : Guard) (s : State) : Result :=
  .next (intOpI s cl d a imm 1 g (· &&& ·))

/-- OR (R378). -/
def execOr (cl : Cl) (d a b : Reg) (g : Guard) (s : State) : Result := .next (intOp2 s cl d a b 1 g (· ||| ·))

/-- ORI (R378). -/
def execOri (cl : Cl) (d a : Reg) (imm : BitVec 12) (g : Guard) (s : State) : Result :=
  .next (intOpI s cl d a imm 1 g (· ||| ·))

/-- XOR (R446). -/
def execXor (cl : Cl) (d a b : Reg) (g : Guard) (s : State) : Result := .next (intOp2 s cl d a b 1 g (· ^^^ ·))

/-- XORI (R446). -/
def execXori (cl : Cl) (d a : Reg) (imm : BitVec 12) (g : Guard) (s : State) : Result :=
  .next (intOpI s cl d a imm 1 g (· ^^^ ·))

/-- SLL (R393). -/
def execSll (cl : Cl) (d a b : Reg) (g : Guard) (s : State) : Result :=
  .next (intOp2 s cl d a b 1 g (fun x y => x <<< amount y))

/-- SRL (R393). -/
def execSrl (cl : Cl) (d a b : Reg) (g : Guard) (s : State) : Result :=
  .next (intOp2 s cl d a b 1 g (fun x y => x >>> amount y))

/-- SRA (R393). -/
def execSra (cl : Cl) (d a b : Reg) (g : Guard) (s : State) : Result :=
  .next (intOp2 s cl d a b 1 g (fun x y => x.sshiftRight (amount y)))

/-- SLLI (R393). -/
def execSlli (cl : Cl) (d a : Reg) (imm : BitVec 12) (g : Guard) (s : State) : Result :=
  .next (shiftOpI s (.slli cl d a imm g) cl d a imm g (· <<< ·))

/-- SRLI (R393). -/
def execSrli (cl : Cl) (d a : Reg) (imm : BitVec 12) (g : Guard) (s : State) : Result :=
  .next (shiftOpI s (.srli cl d a imm g) cl d a imm g (· >>> ·))

/-- SRAI (R393). -/
def execSrai (cl : Cl) (d a : Reg) (imm : BitVec 12) (g : Guard) (s : State) : Result :=
  .next (shiftOpI s (.srai cl d a imm g) cl d a imm g (fun x n => x.sshiftRight n))

/-- MUL: the low 64 bits (R370). -/
def execMul (cl : Cl) (d a b : Reg) (g : Guard) (s : State) : Result := .next (intOp2 s cl d a b 2 g (· * ·))

/-- MULH: the high 64 bits of the signed product (R370). -/
def execMulh (cl : Cl) (d a b : Reg) (g : Guard) (s : State) : Result :=
  .next (intOp2 s cl d a b 2 g (fun x y => BitVec.ofInt 64 (x.toInt * y.toInt / 2 ^ 64)))

/-- MULHU: the high 64 bits of the unsigned product (R370). -/
def execMulhu (cl : Cl) (d a b : Reg) (g : Guard) (s : State) : Result :=
  .next (intOp2 s cl d a b 2 g (fun x y => BitVec.ofNat 64 (x.toNat * y.toNat / 2 ^ 64)))

/-- MULI (R370). -/
def execMuli (cl : Cl) (d a : Reg) (imm : BitVec 12) (g : Guard) (s : State) : Result :=
  .next (intOpI s cl d a imm 2 g (· * ·))

/-- MIN: the lesser, signed (R366). -/
def execMin (cl : Cl) (d a b : Reg) (g : Guard) (s : State) : Result :=
  .next (intOp2 s cl d a b 1 g (fun x y => if x.toInt ≤ y.toInt then x else y))

/-- MAX: the greater, signed (R366). -/
def execMax (cl : Cl) (d a b : Reg) (g : Guard) (s : State) : Result :=
  .next (intOp2 s cl d a b 1 g (fun x y => if x.toInt ≥ y.toInt then x else y))

/-- MINU: the lesser, unsigned (R366). -/
def execMinu (cl : Cl) (d a b : Reg) (g : Guard) (s : State) : Result :=
  .next (intOp2 s cl d a b 1 g (fun x y => if x.toNat ≤ y.toNat then x else y))

/-- MAXU: the greater, unsigned (R366). -/
def execMaxu (cl : Cl) (d a b : Reg) (g : Guard) (s : State) : Result :=
  .next (intOp2 s cl d a b 1 g (fun x y => if x.toNat ≥ y.toNat then x else y))

/-- POPC (R380). -/
def execPopc (cl : Cl) (d a : Reg) (g : Guard) (s : State) : Result :=
  .next (intOp1 s cl d a g (fun x => BitVec.ofNat 64 (countOnes 64 x.toNat)))

/-- CLZ: zero bits above the highest 1 (R336). -/
def execClz (cl : Cl) (d a : Reg) (g : Guard) (s : State) : Result :=
  .next (intOp1 s cl d a g (fun x => BitVec.ofNat 64 (countTrailing 64 (reverseBits 64 x.toNat))))

/-- CTZ: zero bits below the lowest 1 (R336). -/
def execCtz (cl : Cl) (d a : Reg) (g : Guard) (s : State) : Result :=
  .next (intOp1 s cl d a g (fun x => BitVec.ofNat 64 (countTrailing 64 x.toNat)))

/-- BREV: d[i] := a[63 - i] (R336). -/
def execBrev (cl : Cl) (d a : Reg) (g : Guard) (s : State) : Result :=
  .next (intOp1 s cl d a g (fun x => BitVec.ofNat 64 (reverseBits 64 x.toNat)))

/-- SEXTB (R391). -/
def execSextb (cl : Cl) (d a : Reg) (g : Guard) (s : State) : Result :=
  .next (intOp1 s cl d a g (fun x => (x.setWidth 8).signExtend 64))

/-- SEXTH (R391). -/
def execSexth (cl : Cl) (d a : Reg) (g : Guard) (s : State) : Result :=
  .next (intOp1 s cl d a g (fun x => (x.setWidth 16).signExtend 64))

/-- SEXTW (R391). -/
def execSextw (cl : Cl) (d a : Reg) (g : Guard) (s : State) : Result :=
  .next (intOp1 s cl d a g (fun x => (x.setWidth 32).signExtend 64))

/-- ZEXTW (R447). -/
def execZextw (cl : Cl) (d a : Reg) (g : Guard) (s : State) : Result :=
  .next (intOp1 s cl d a g (fun x => (x.setWidth 32).setWidth 64))

/-- The signed quotient with the corners of R123. -/
def divSigned (x y : Word) : Word := if y = 0 then BitVec.allOnes 64 else BitVec.ofInt 64 (x.toInt.tdiv y.toInt)

/-- The signed remainder with the corners of R123. -/
def remSigned (x y : Word) : Word := if y = 0 then x else BitVec.ofInt 64 (x.toInt.tmod y.toInt)

/-- The unsigned quotient with the corner of R123. -/
def divUnsigned (x y : Word) : Word := if y = 0 then BitVec.allOnes 64 else BitVec.ofNat 64 (x.toNat / y.toNat)

/-- The unsigned remainder with the corner of R123. -/
def remUnsigned (x y : Word) : Word := if y = 0 then x else BitVec.ofNat 64 (x.toNat % y.toNat)

/-- DIV (R342). -/
def execDiv (cl : Cl) (d a b : Reg) (g : Guard) (s : State) : Result := .next (intOp2 s cl d a b 20 g divSigned)

/-- DIVU (R342). -/
def execDivu (cl : Cl) (d a b : Reg) (g : Guard) (s : State) : Result := .next (intOp2 s cl d a b 20 g divUnsigned)

/-- REM (R342). -/
def execRem (cl : Cl) (d a b : Reg) (g : Guard) (s : State) : Result := .next (intOp2 s cl d a b 20 g remSigned)

/-- REMU (R342). -/
def execRemu (cl : Cl) (d a b : Reg) (g : Guard) (s : State) : Result := .next (intOp2 s cl d a b 20 g remUnsigned)

/-- A comparison of 64-bit values (R339). -/
def cmpHolds (c : Cmp) (x y : Word) : Bool :=
  match c with
  | .eq => x = y
  | .ne => x ≠ y
  | .lt => x.toInt < y.toInt
  | .ltu => x.toNat < y.toNat
  | .le => x.toInt ≤ y.toInt
  | .leu => x.toNat ≤ y.toNat

/-- CMP.cc (R339). -/
def execCmp (cc : Cmp) (cl : Cl) (pd : BitVec 3) (a b : Reg) (g : Guard) (s : State) : Result :=
  .next (predOp s pd 1 g (fun t => (cmpHolds cc (t.regs.getS cl a) (t.regs.getS cl b), fNone)))

/-- CMPI.EQ (R339). -/
def execCmpiEq (cl : Cl) (pd : BitVec 3) (a : Reg) (imm : BitVec 12) (g : Guard) (s : State) : Result :=
  .next (predOp s pd 1 g (fun t => (cmpHolds .eq (t.regs.getS cl a) (immOf s imm), fNone)))

/-- CMPI.LT (R339). -/
def execCmpiLt (cl : Cl) (pd : BitVec 3) (a : Reg) (imm : BitVec 12) (g : Guard) (s : State) : Result :=
  .next (predOp s pd 1 g (fun t => (cmpHolds .lt (t.regs.getS cl a) (immOf s imm), fNone)))

/-- CMPI.LTU (R339). -/
def execCmpiLtu (cl : Cl) (pd : BitVec 3) (a : Reg) (imm : BitVec 12) (g : Guard) (s : State) : Result :=
  .next (predOp s pd 1 g (fun t => (cmpHolds .ltu (t.regs.getS cl a) (immOf s imm), fNone)))

/-- XMOV: all 64 bits to the other cluster (R445). -/
def execXmov (cl : Cl) (d a : Reg) (g : Guard) (s : State) : Result :=
  .next (intOp s (Cl.reg (Cl.other cl) d) 2 g (fun t => t.regs.getS cl a))

/-- SEL: a if p[pf] else b (R384). -/
def execSel (cl : Cl) (d : Reg) (pf : BitVec 3) (a b : Reg) (g : Guard) (s : State) : Result :=
  .next (intOp s (Cl.reg cl d) 1 g (fun t => if t.regs.getP pf then t.regs.getS cl a else t.regs.getS cl b))

/-- MOVI (R369). -/
def execMovi (cl : Cl) (d : Reg) (imm : BitVec 17) (g : Guard) (s : State) : Result :=
  .next (intOp s (Cl.reg cl d) 1 g (fun _ => imm.signExtend 64))

/-- SHORI: (d << 16) or imm (R392). -/
def execShori (cl : Cl) (d : Reg) (imm : BitVec 16) (g : Guard) (s : State) : Result :=
  .next (intOp s (Cl.reg cl d) 1 g (fun t => (t.regs.getS cl d <<< 16) ||| imm.setWidth 64))

/-- NOP has no effect (R95, R377). -/
def execNop (_pos : Pos) (s : State) : Result := .next s

end Sys2Proof.Machine
end

