-- ==== Sys2Proof/Machine/Access.lean ====
section
/-! DEFINITION. Where a thread's access goes and when it may be performed: checks, translation, watermarks, the order
queue, miss registers and remote packets (R171 to R194, R205 to R210, R236). -/

namespace Sys2Proof.Machine

/-- Is the thread in domain time: a member in user mode (R63, R70)? -/
def Thread.inDomain (t : Thread) : Bool := t.timed && t.mode = 0

/-- Change the thread of a core with an identity, in its slot or among the ended ones. -/
def State.modOwner (s : State) (n tid : Nat) (f : Thread → Thread) : State :=
  match s.slotOf n tid with
  | some k => s.modThread n k f
  | none => s.modCore n (fun c => { c with ended := c.ended.map (fun t => if t.tid = tid then f t else t) })

/-- The thread of a core with an identity, in its slot or among the ended ones. -/
def State.ownerThread (s : State) (n tid : Nat) : Option Thread :=
  match s.slotOf n tid with
  | some k => s.thread n k
  | none => (s.core n).ended.find? (fun t => t.tid = tid)

/-! ### The peer table (R319) -/

/-- What a peer index names. -/
inductive Peer | here | away | none
  deriving DecidableEq, Repr

/-- R181, R319: with no SELF entry nothing is named, and an entry for this package's own id without SELF names nothing. -/
def peerOf (s : State) (i : BitVec 12) : Peer :=
  let e : Word := assocGet s.bar.peers i.toNat 0
  if !(s.bar.peers.any (fun p => p.2.getLsbD 63 && p.2.getLsbD 62)) || !e.getLsbD 63 then .none
  else if e.getLsbD 62 then .here
  else if e.extractLsb' 0 14 = Config.straps then .none
  else .away

/-! ### Checks (R171 to R173, R181 to R184) -/

/-- The permission that a class-M access needs (R188). -/
inductive Perm | r | w | rw | x
  deriving DecidableEq, Repr

/-- How a form reaches class G: not at all, only its cluster (R183), or its tenant's cores (R184). -/
inductive GRule | no | cluster | tenant
  deriving DecidableEq, Repr

/-- The access shape of a form: bytes, alignment, classes (R172), and for an atomic whether a host page needs the
capability bit (`some true`) or is never reached (`some false`) (R191). -/
structure Shape where
  n : Nat
  align : Nat
  l : Bool
  g : GRule
  m : Option Perm
  cap : Option Bool
  deriving DecidableEq, Repr

/-- Where a checked access goes: a trap, the local scratchpad, a core of this or another package, a byte key of class M;
or it waits for a translation, or meets a translation fault. -/
inductive Spot
  | trap (cause : BitVec 16) (val : Word)
  | loc (off : Nat)
  | core (n off : Nat) (peer : Option (BitVec 12))
  | gen (key : Nat)
  | walk
  | fault
  deriving DecidableEq, Repr

/-- May a thread of slot k touch n bytes at an offset, of its own core or another (R173)? -/
def tailOk (t : Thread) (k : Nat) (own : Bool) (off n : Nat) : Bool :=
  off + n ≤ 0x78000 ||
    (own && (t.mode = 2 || (t.mode = 1 && tailOf k ≤ max off 0x78000 && off + n ≤ tailOf k + 0x1000)))

/-- The cores that a thread may read remotely (R183). -/
def inCluster (t : Thread) (own m : Nat) : Bool :=
  if t.task.size ≤ 1 then m = own else t.task.base ≤ m && m < t.task.base + t.task.size

/-- Is a core placed in a region with the tenant of region `rid` (R184)? -/
def tenantCore (s : State) (rid : BitVec 16) (m : Nat) : Bool :=
  match s.region rid with
  | some r => s.regions.any (fun q => q.tenant = r.tenant && q.cores.contains m)
  | none => false

/-- The cached translation of an address on a core: its own TLB, then its die's (R187). -/
def lookupXlate (s : State) (n : Nat) (pasid : BitVec 20) (va : Nat) : Option TlbEntry :=
  match (s.core n).cache.tlb.find? (fun e => covers e.t pasid va) with
  | some e => some e
  | none => (s.die (BitVec.ofNat 2 (dieOf n))).tlb.find? (fun e => covers e.t pasid va)

/-- Does a page grant a permission? -/
def Perm.granted (p : Perm) (x : Xlate) : Bool :=
  match p with | .r => x.r | .w => x.w | .rw => x.r && x.w | .x => x.x

/-- Is a key in the area of BAR 2 reserved for the device (R311)? -/
def reservedKey (key : Nat) : Bool := keyStack 0x3FC0000000 ≤ key && key < keyStack (2 ^ 38)

/-- The PASID of a region's tenant (R187). -/
def pasidOf (s : State) (rid : BitVec 16) : BitVec 20 := match s.region rid with | some r => r.pasid | none => 0

/-- A class-M address on a core under a PASID (R187, R188, R191, R311). -/
def spotM (s : State) (n : Nat) (pasid : BitVec 20) (p : Perm) (cap : Option Bool) (ea : Word) : Spot :=
  match lookupXlate s n pasid ea.toNat with
  | none => .walk
  | some e =>
    let key := xlateKey e.t ea.toNat
    if !p.granted e.t || reservedKey key then .fault
    else if isHost key && (cap = some false || (cap = some true && !e.atomic)) then .trap cATOMIC ea
    else .gen key

/-- A class-G address (R173, R181, R183, R184). -/
def spotG (s : State) (t : Thread) (n k : Nat) (f : Shape) (ea : Word) : Spot :=
  let m := gCore ea
  let away : Bool := peerOf s (gPeer ea) = .away
  if f.g = .no || peerOf s (gPeer ea) = .none || ea.extractLsb' 19 4 ≠ 0 || (ea.extractLsb' 28 5).toNat > 23 ||
      (!away && !present s m) || !tailOk t k (!away && m = n) (gOff ea) f.n || (away && f.g = .cluster) ||
      (!away && f.g = .cluster && !inCluster t n m) || (!away && f.g = .tenant && !tenantCore s t.task.rid m) then
    .trap cPRIV ea
  else .core m (gOff ea) (if away then some (gPeer ea) else none)

/-- The checks of an access by the thread in slot k of core n: alignment, class, translation, atomic support (R172,
R251, R356). -/
def spotOf (s : State) (t : Thread) (n k : Nat) (f : Shape) (ea : Word) : Spot :=
  if ea.toNat % f.align ≠ 0 then .trap cALIGN ea
  else
    match classOf ea with
    | .none => .trap cPRIV ea
    | .l =>
      if ea.toNat + f.n > 0x80000 then .trap cALIGN ea
      else if !f.l || !tailOk t k true ea.toNat f.n then .trap cPRIV ea else .loc ea.toNat
    | .g => if gOff ea + f.n > 0x80000 then .trap cALIGN ea else spotG s t n k f ea
    | .m =>
      match f.m with
      | none => .trap cPRIV ea
      | some p => spotM s n (pasidOf s t.task.rid) p f.cap ea

/-! ### Translations and page requests (R187, R192, R193) -/

/-- A miss in both TLBs takes a walker; with all 64 in use it waits for one (R187). -/
def askXlate (s : State) (n : Nat) (pasid : BitVec 20) (va : Nat) : State :=
  let d := BitVec.ofNat 2 (dieOf n)
  let page := va / 4096 * 4096
  let w := (s.die d).walks
  if w.contains (pasid, page) || w.length ≥ 64 then s
  else (s.modDie d (fun e => { e with walks := e.walks ++ [(pasid, page)] })).emit (.translation d pasid page)

/-- Send the page requests that may be: `room` more, one of a task at a time (R193). -/
def pickSends (room : Nat) (busy : List (Option (BitVec 16 × Word))) (l : List PageReq) : List PageReq :=
  match l with
  | [] => []
  | r :: q =>
    if !r.sent && 0 < room && !(r.task.isSome && busy.contains r.task) then
      { r with sent := true } :: pickSends (room - 1) (r.task :: busy) q
    else r :: pickSends room busy q

/-- The page requests of a die that may be sent leave: at most 512 are outstanding (R193). -/
def sendReqs (s : State) (d : BitVec 2) : State :=
  let old := (s.die d).reqs
  let out := old.filter (fun r => r.sent)
  let new := pickSends (512 - out.length) (out.map (fun r => r.task)) old
  let s := s.modDie d (fun e => { e with reqs := new })
  ((old.zip new).filter (fun p => !p.1.sent && p.2.sent)).foldl (fun s p => s.emit (.pageRequest d p.1.pasid p.1.page)) s

/-- A page request to the host for a fault of a task, if any; it is sent when R193 lets it. -/
def askPage (s : State) (d : BitVec 2) (pasid : BitVec 20) (va : Nat) (task : Option (BitVec 16 × Word)) : Nat × State :=
  let (id, s) := s.newId
  (id, sendReqs (s.modDie d (fun e => { e with reqs := e.reqs ++ [⟨id, pasid, va / 4096 * 4096, task, false⟩] })) d)

/-- The task of a thread, as R193 counts its faults: a gang is one. -/
def faultTask (t : Task) : Option (BitVec 16 × Word) := some (t.rid, t.seq)

/-- Drop the cached translations of a page, so that the next access asks again. -/
def dropXlate (s : State) (pasid : BitVec 20) (va : Nat) : State :=
  let keep (l : List TlbEntry) : List TlbEntry := l.filter (fun e => !covers e.t pasid va)
  { s with
    cores := s.cores.map (fun c => (c.1, { c.2 with cache := { c.2.cache with tlb := keep c.2.cache.tlb } }))
    dies := s.dies.map (fun d => { d with tlb := keep d.tlb }) }

/-- Has a thread an MXRUN queued or running on its core (R165)? -/
def hasMxrun (e : Engine) (tid : Nat) : Bool :=
  (match e.run with | some r => r.head.tid = tid | none => false) ||
    e.queue.any (fun q => q.head.tid = tid && (match q.kind with | .mxrun _ _ _ => true | _ => false))

/-- The payload of XLATEFAULT (R274). -/
def faultForm (ea : Word) (fetch write : Bool) (tk : Nat) : BitVec 82 :=
  aForm ea ((if fetch then 2 ^ 33 else 0) + (if write then 2 ^ 32 else 0) + tk % 2 ^ 32)

/-- A translation fault of the issuing thread: recorded, fatal in a timed domain or a handler, a page request of a gang
member or of a thread with an MXRUN, which keep their slot, and the save of an untimed single task (R165, R192, R274). -/
def pageFault (s : State) (t : Thread) (syl : Nat) (ea : Word) (fetch write : Bool) : State :=
  let s := recordCore s s.cur.core 0x11 s.cur.slot (s.tagOf t.task.rid)
    (faultForm ea fetch write (s.domtick t)) none (some t.tid)
  if t.timed || t.mode ≠ 0 then trapCur s cXLATE syl ea
  else
    let n := s.cur.core
    let pasid := pasidOf s t.task.rid
    let s := dropXlate s pasid ea.toNat
    let s :=
      if t.task.size > 1 || hasMxrun (s.core n).eng t.tid then
        let (id, s) := askPage s (BitVec.ofNat 2 (dieOf n)) pasid ea.toNat (faultTask t.task)
        s.modCth (fun t => { t with life := { t.life with faulted := some id, saving := some ea.toNat } })
      else s.modCth (fun t => { t with life := { t.life with saving := some ea.toNat } })
    hold s

/-! ### Watermark channels (R92, R236) -/

/-- Does a class-L access of n bytes touch [MARK, LIMIT) of an armed channel? -/
def watermarked (c : Core) (off n : Nat) : Bool :=
  c.net.wmk.toList.any (fun w => w.armed && w.mark < off + n && off < w.limit && w.mark < w.limit)

/-! ### The order queue (R206 to R210) -/

/-- The sum of a list. -/
def sumNat (l : List Nat) : Nat := l.foldl (· + ·) 0

/-- Is an entry an access, rather than a FENCE or an implicit release? -/
def QEntry.access (e : QEntry) : Bool := match e.kind with | .fence _ _ => false | .erelease => false | _ => true

/-- Is an entry a deferred access of class L? -/
def QEntry.isLocal (e : QEntry) : Bool := match e.kind with | .atomL => true | _ => false

/-- Entries that occupy the queue: accesses of classes G and M not yet performed (R210). -/
def queued (t : Thread) : Nat := (t.orderQ.filter (fun e => e.access && !e.isLocal && !e.perf)).length

/-- The occupied entries of the issuing slot's queue, those of threads that ended in the slot among them (R210, R344). -/
def slotQueued (s : State) (t : Thread) : Nat :=
  queued t + sumNat ((s.ccore.ended.filter (fun u => u.life.left = s.cur.slot)).map queued)

/-- Does the issuing slot's queue lack room for n more accesses (R210)? -/
def queueFull (s : State) (t : Thread) (n : Nat) : Bool := Config.orderQueue < slotQueued s t + n

/-- Does a FENCE cover a stream (R207)? -/
def fenceCovers (full : Bool) (mask : BitVec 16) (sid : Nat) : Bool := full || mask.getLsbD sid

/-- Must an earlier entry `a` be performed before entry `b` (R206 to R209)? The synchronising pairs of R211 and the
happens-before of R212 follow from these waits, and R213 to R215 say what the orders left open may show. -/
def blocks (a b : QEntry) : Bool :=
  match b.kind with
  | .erelease => a.access && a.sid = b.sid
  | .fence full mask => a.access && !a.isLocal && !a.perf && fenceCovers full mask a.sid
  | _ =>
    match a.kind with
    | .fence full mask => !b.isLocal && fenceCovers full mask b.sid
    | .erelease => b.acq
    | .atomL => b.rel || (!a.perf && (!b.loop || (b.acq && a.rel)))
    | _ => b.rel || (!a.perf && ((a.sid = b.sid && a.sid < 16 && !b.isLocal) || (b.acq && a.rel)))

/-- May an entry of a queue be performed: nothing before it blocks it? -/
def unblocked (q : List QEntry) (id : Nat) : Bool :=
  match q.find? (fun e => e.id = id) with
  | none => false
  | some b => (q.takeWhile (fun e => e.id ≠ id)).all (fun a => !blocks a b)

/-- Drop the fences and implicit releases at which nothing before them waits. -/
def settleFrom (before : List QEntry) (l : List QEntry) : List QEntry :=
  match l with
  | [] => before
  | e :: r =>
    if !e.access && before.all (fun a => !blocks a e) then settleFrom before r else settleFrom (before ++ [e]) r

/-- Drop the fences and implicit releases that are done. -/
def settle (q : List QEntry) : List QEntry := settleFrom [] q

/-- Append an entry to the issuing thread's queue, under a new identity. -/
def pushQ (s : State) (sid : Nat) (rel acq loop : Bool) (kind : Nat → QKind) : State :=
  let (id, s) := s.newId
  s.modCth (fun t => { t with orderQ := settle (t.orderQ ++ [⟨id, sid, rel, acq, loop, false, false, kind id⟩]) })

/-- Every access of the thread is performed and landed (R209, R223). -/
def accessesDone (t : Thread) : Bool := t.orderQ.all (fun e => !e.access)

/-- Is a deferred atomic of class L of an earlier bundle of the issuing thread still to be performed? An access of class L waits for it
(R206, R299). -/
def localPending (s : State) (t : Thread) : Bool := t.orderQ.any (fun e => e.isLocal && !e.perf && e.id < s.cur.first)

/-- The puts that a thread issued before an identity are acknowledged (R209). -/
def putsDone (s : State) (tid before : Nat) : Bool :=
  let isPut (p : Packet) : Bool := match p.cargo with | .put .. => true | _ => false
  let puts (j : Job) : Bool := match j.kind with | .send _ w => w.extractLsb' 62 2 = 1 | _ => false
  !(s.net.any (fun p => isPut p && p.head.tid = tid && p.head.id < before)) &&
    !(s.cores.any (fun c => c.2.net.jobs.any (fun j => puts j && j.head.tid = tid && j.head.id < before)))

/-- May a release of class L of the issuing thread be performed: every access and put of its earlier bundles is done (R95, R209)? -/
def releaseOpen (s : State) (t : Thread) : Bool :=
  t.orderQ.all (fun e => !e.access || s.cur.first ≤ e.id) && putsDone s t.tid s.cur.first

/-- Every access on a stream before an identity is performed and has landed: so far waits the implicit release of a SEND or SPAWN (R209,
R237). -/
def streamLanded (t : Thread) (sid : Nat) (before : Nat) : Bool :=
  t.orderQ.all (fun e => !(e.access && e.sid = sid && e.id < before))

/-- Every earlier release of the thread is performed (R208). -/
def releasesDone (t : Thread) : Bool := t.orderQ.all (fun e => !e.rel)

/-- Every access on a stream before an identity is performed (R218). -/
def streamDone (t : Thread) (sid : Nat) (before : Nat) : Bool :=
  t.orderQ.all (fun e => !(e.access && !e.perf && e.sid = sid && e.id < before))

/-! ### Send windows and miss registers (R84, R184, R239) -/

/-- Does a packet hold a place of a send window: all but loads, atomics, records for the own die and scheduled messages
(R239)? -/
def windowed (p : Packet) : Bool :=
  match p.cargo with
  | .load .. => false | .atomic .. => false | .sched => false
  | .record d _ => d.toNat ≠ dieOf p.src
  | _ => true

/-- Is the send window of a route open (R239)? -/
def windowOpen (s : State) (src dst : Nat) (peer : Option (BitVec 12)) : Bool :=
  (s.net.filter (fun p => p.src = src && p.dst = dst && p.peer = peer && windowed p)).length < Config.window

/-- Is a miss register of the core free (R84)? -/
def missFree (c : Core) : Bool := (c.net.misses.filter (fun m => m.holds)).length < Config.missRegs

/-- Does an access find its shared resources taken: a watermark (of an L-slot access), a miss register, the order queue, a
send window? Of the accesses of class L only a returning atomic holds a miss register (R83, R84). -/
def blocked (s : State) (t : Thread) (syl : Nat) (f : Shape) (ea : Word) (var : Bool) : Bool :=
  match classOf ea with
  | .l => (syl = sylL && f.l && watermarked s.ccore ea.toNat f.n) || (f.cap.isSome && var && !missFree s.ccore)
  | .m => f.m.isSome && ((var && !missFree s.ccore) || queueFull s t 1)
  | .g => f.g ≠ .no && ((var && !missFree s.ccore) || queueFull s t 1 ||
      (f.g = .tenant && !windowOpen s s.cur.core (gCore ea)
        (if peerOf s (gPeer ea) = .away then some (gPeer ea) else none)))
  | .none => false

/-- An access of the issuing syllable: TIMING where it would wait on a shared resource in domain time, its checks, then
any hold, then its effect (R70, R192, R251). `waitL` holds a class-L release or acquire (R208, R209). An access without a translation
holds, so that its faults and ATOMIC_UNSUP are precise, in domain time too (R191, R192, R195; DESIGN CHOICE: R70 names no such hold and
no trap for it; log entry 19). -/
def accessing (s : State) (t : Thread) (syl : Nat) (f : Shape) (ea : Word) (var waitL : Bool)
    (k : State → Spot → State) : State :=
  let b := blocked s t syl f ea var
  if b && t.inDomain then trapCur s cTIMING syl 0
  else
    match spotOf s t s.cur.core s.cur.slot f ea with
    | .trap c v => trapCur s c syl v
    | .walk => hold (askXlate s s.cur.core (pasidOf s t.task.rid) ea.toNat)
    | .fault => pageFault s t syl ea false (f.m = some .w || f.m = some .rw)
    | .loc off => if b || waitL || localPending s t then hold s else k s (.loc off)
    | sp => if b then hold s else k s sp

/-! ### The read cache and ownership (R189, R217) -/

/-- The line of a key. -/
def lineOf (key : Nat) : Nat := key / 64 * 64

/-- The line of a core's read cache that holds a key. -/
def cachedLine (c : Core) (key : Nat) : Option Line := c.cache.rc.find? (fun l => l.key = lineOf key)

/-- n bytes of a line from a key. -/
def lineBytes (l : Line) (key n : Nat) : List Byte := (l.data.drop (key - l.key)).take n

/-- Fill a line: 64 sets of four ways, the oldest of the set leaving (R189; log entry 12). -/
def fillLine (rc : List Line) (l : Line) : List Line :=
  let rest := rc.filter (fun x => x.key ≠ l.key)
  let peers := rest.filter (fun x => x.key / 64 % 64 = l.key / 64 % 64)
  match peers with
  | a :: _ :: _ :: _ :: _ => rest.filter (fun x => x.key ≠ a.key) ++ [l]
  | _ => rest ++ [l]

/-- Does a core own every word of a line (R217)? -/
def ownsLine (owners : List (Nat × Nat)) (n key : Nat) : Bool :=
  (List.range 16).all (fun i => owners.any (fun o => o.1 = key + 4 * i && o.2 = n))

/-- A completing acquire discards the lines that hold a word the core does not own (R208, R216, R217). -/
def acquireDone (s : State) (n : Nat) : State :=
  s.modCache n (fun c => { c with rc := c.rc.filter (fun l => ownsLine s.owners n l.key) })

/-- The line of a core's read cache that a load may read: for an acquire only one that holds no older copy of its words,
since the core owns them (R189, R208, R213, R217). -/
def usableLine (s : State) (n key len : Nat) (acq : Bool) : Option Line :=
  match cachedLine (s.core n) key with
  | none => none
  | some l =>
    if !acq || (List.range 16).all (fun i =>
        !(key < l.key + 4 * i + 4 && l.key + 4 * i < key + len) || s.owners.any (fun o => o.1 = l.key + 4 * i && o.2 = n)) then
      some l
    else none

/-- A byte with some bits replaced. -/
def blendByte (old new mask : Byte) : Byte := (old &&& ~~~mask) ||| (new &&& mask)

/-- A core's own store updates the words of a line that it writes; each then holds the newest value, also in the bytes that
another core wrote (R189, R217). -/
def updateLine (m : List Host.Cell) (b : List (Nat × Byte × Byte)) (l : Line) : Line :=
  { l with data := (l.data.zipIdx).map (fun e =>
      if b.any (fun w => w.1 / 4 = (l.key + e.2) / 4) then Memory.read m (l.key + e.2) else e.1) }

/-- Write masked bytes to memory (R205). -/
def writeMasked (m : List Host.Cell) (l : List (Nat × Byte × Byte)) : List Host.Cell :=
  l.foldl (fun m b => Memory.write m b.1 (blendByte (Memory.read m b.1) b.2.1 b.2.2)) m

/-- Does a list of bytes rewrite a whole line? -/
def rewritesLine (l : List (Nat × Byte × Byte)) (line : Nat) : Bool :=
  (List.range 64).all (fun i => l.any (fun b => b.1 = line + i && b.2.2 = 0xFF))

/-- A core registers ownership of the words it stores (R189, R217). -/
def registerWords (o : List (Nat × Nat)) (n : Nat) (l : List (Nat × Byte × Byte)) : List (Nat × Nat) :=
  l.foldl (fun o b => assocSet o (b.1 / 4 * 4) n) o

/-- A home slice finds that a change made at a line ends the registered waits that `hit` names by key, with what it says of a poisoned
counter; the first such change counts (R32, R387, R437). -/
def notifyWaits (s : State) (hit : Nat → Wait → Option Bool) : State :=
  let found (t : Thread) : Option (Nat × Bool) :=
    match t.pipe.watch with
    | some (key, none) => (hit key t.pipe.wait).map (fun b => (key, b))
    | _ => none
  let mark (n : Nat) (t : Thread) : Thread :=
    match found t with
    | some (key, b) => { t with pipe := { t.pipe with watch := some (key, some (s.coreClock n, b)) } }
    | none => t
  if s.cores.any (fun c => c.2.slots.toList.any (fun o => o.any (fun t => (found t).isSome))) then
    { s with cores := s.cores.map (fun c => (c.1, { c.2 with slots := c.2.slots.map (fun o => o.map (mark c.1)) })) }
  else s

/-- The WAITAs of class M whose word written bytes made to differ (R437). -/
def notifyStores (s : State) (l : List (Nat × Byte × Byte)) : State :=
  if l.any (fun b => 2 ^ 40 ≤ b.1) then
    notifyWaits s (fun key w =>
      match w with
      | .waita _ b => if l.any (fun x => key ≤ x.1 && x.1 < key + 8) && Memory.readLE s.mem key 8 ≠ b.toNat then some false else none
      | _ => none)
  else s

/-- A class-M store or atomic of a core is performed: memory, ownership, its own cached line and poison (R189, R204, R217, R266,
R330). -/
def storeM (s : State) (n : Nat) (l : List (Nat × Byte × Byte)) : State :=
  let m := writeMasked s.mem l
  notifyStores (noteWrite (({ s with
     mem := m
     owners := registerWords s.owners n l
     poison := s.poison.filter (fun p => !rewritesLine l p) }).modCache n
    (fun c => { c with rc := c.rc.map (updateLine m l) })) l) l

/-- The open manifests of a region and of its ancestors mark the page that a class-M access of it writes (R303). -/
def markPage (s : State) (rid : BitVec 16) (va : Word) : State :=
  let page := va.toNat / 4096
  { s with manifests := s.manifests.map (fun m =>
      if !m.closed && s.within m.rid rid && !m.marks.contains page then { m with marks := m.marks ++ [page] } else m) }

/-- A store that no core's cache follows: of an engine, a remote core or the host. No core then owns its words,
so that no read cache keeps an older copy of them across an acquire (R189, R217). -/
def storeRaw (s : State) (l : List (Nat × Byte × Byte)) : State :=
  noteWrite { s with
    mem := writeMasked s.mem l
    owners := l.foldl (fun o b => assocErase o (b.1 / 4 * 4)) s.owners
    poison := s.poison.filter (fun p => !rewritesLine l p) } l

/-- A store of class M by an engine, a device unit or the host, of which the home slices notify the waits (R189, R437). -/
def storeDev (s : State) (l : List (Nat × Byte × Byte)) : State := notifyStores (storeRaw s l) l

/-! ### Loads (R83, R84, R190) -/

/-- The value that a load lands: its bytes extended, under its mask, with what was read before and its scale byte. -/
def missValue (m : Miss) (bytes : List Byte) (scale : Byte) : Vec :=
  let v : Vec := BitVec.ofNat 512 (leValue bytes)
  let v : Vec := if m.signed && v.getLsbD (8 * m.n - 1) then
    (v ||| (BitVec.allOnes 512 <<< (8 * m.n))).setWidth 64 |>.setWidth 512 else v
  (v &&& m.mask) ||| m.base ||| (scale.setWidth 512 <<< 128)

/-- Change a load of a core. -/
def modMiss (s : State) (n id : Nat) (f : Miss → Miss) : State :=
  s.modNet n (fun e => { e with misses := e.misses.map (fun m => if m.id = id then f m else m) })

/-- A line enters a core's read cache. -/
def cacheLine (s : State) (n line : Nat) : State :=
  s.modCache n (fun c => { c with rc := fillLine c.rc ⟨line, Memory.readBytes s.mem line 64⟩ })

/-- A read-cache line of a core is filled; the line after it in its page may be prefetched, which is a read of it (R189, R216,
R267). -/
def fillCache (s : State) (n key : Nat) : State :=
  let next := lineOf key + 64
  let s' := (cacheLine s n (lineOf key)).tickFresh
  if Config.prefetch s.sched.fresh && next / 4096 = lineOf key / 4096 && (cachedLine (s.core n) next).isNone then
    cacheLine (noteRead s' (.core n) 0 none next 64) n next
  else s'

/-- The bytes that a class-M load reads, and whether from the read cache, which it fills (R189). -/
def readThrough (s : State) (n key len : Nat) (acq : Bool) : List Byte × Bool × State :=
  match usableLine s n key len acq with
  | some l => (lineBytes l key len, true, s)
  | none =>
    if len = 0 then ([], true, s) else (Memory.readBytes s.mem key len, false, fillCache s n key)

/-- The latency accumulator that a class-M reply adds to (R190). -/
def latOf (key : Nat) : Nat := if isHost key then 37 else homeSlice key

/-- Is a line poisoned, so that a read of it is an uncorrectable error (R266)? -/
def poisoned (s : State) (key : Nat) : Bool := s.poison.contains (lineOf key)

/-- A read of a poisoned counter-pool line by a core is region-fatal ECC for the region whose pool it is (R266). -/
def poolError (s : State) (n slot key : Nat) : Option State :=
  if !poisoned s key then none
  else (poolOwner s key).map (fun r => fatalFor s n slot r.rid cECC 0 0 0
    (eccValue 1 (BitVec.ofNat 64 (physOf (lineOf key)))))

/-- A class-M load is performed: its data is read, or a poisoned line gives zero and SOFT (R189, R190, R266). -/
def performLoad (s : State) (n id : Nat) : State :=
  match (s.core n).net.misses.find? (fun m => m.id = id) with
  | none => s
  | some m =>
    let slot := (s.slotOf n m.tid).getD 0
    let s := if m.n = 0 || (usableLine s n m.key m.n m.acq).isSome then s
      else noteRead s (.core n) slot (some m.tid) (lineOf m.key) 64
    let s := match m.scale with
      | some k => if (usableLine s n k 1 m.acq).isSome then s else noteRead s (.core n) slot (some m.tid) (lineOf k) 64
      | none => s
    let (bytes, hit, s) := readThrough s n m.key m.n m.acq
    let (scale, near, s) := match m.scale with | some k => readThrough s n k 1 m.acq | none => ([], true, s)
    let lines := ((if m.n = 0 then [] else [m.key]) ++ m.scale.toList).filter (poisoned s)
    let s := lines.foldl (fun s k => (poolError s n slot k).getD s) s
    modMiss s n id (fun m => { m with
      data := some (if lines.isEmpty then missValue m bytes (scale.headD 0) else 0)
      soft := lines.head?.map lineOf
      lats := m.lats ++ (if hit then [] else [latOf m.key]) ++
        (match m.scale with | some k => if near then [] else [latOf k] | none => []) })

/-- Note an engine update of a control register in this clock (R86, R382). -/
def noteUpdate (e : CoreNet) (clock reg amount : Nat) (old : Word) : CoreNet :=
  { e with landed := e.landed.filter (fun u => u.1 = clock) ++ [(clock, reg, amount, old)] }

/-- A latency accumulator with one more sample; both fields saturate (R90). -/
def sampleLatency (w : Word) (d : Nat) : Word :=
  BitVec.ofNat 64 (min (w.toNat / 2 ^ 40 + 1) 0xFFFFFF * 2 ^ 40 + min (w.toNat % 2 ^ 40 + d) 0xFFFFFFFFFF)

/-- Add a delay field to a latency accumulator (R90). -/
def addLatency (s : State) (n i : Nat) : State :=
  let s := s.tickFresh
  let d := (Config.delayField s.sched.fresh).toNat
  s.modNet n (fun e =>
    let w := e.latacc[i]?.getD 0
    noteUpdate { e with latacc := e.latacc.setIfInBounds i (sampleLatency w d) } s.sched.clock (0x30 + i) d w)

/-- Add one to a mailbox counter, saturating (R91). -/
def addMailbox (s : State) (n : Nat) (mb : BitVec 6) : State :=
  s.modNet n (fun e =>
    let w := e.mbc[mb.toNat]?.getD 0
    noteUpdate { e with mbc := e.mbc.setIfInBounds mb.toNat (if w = 0xFFFFFFFF then w else w + 1) }
      s.sched.clock (0x100 + mb.toNat) 1 (w.setWidth 64))

/-- The latency accumulator of a packet's reply; none on the sender's die (R186, R240). -/
def latOfRoute (src dst : Nat) (peer : Option (BitVec 12)) : Option Nat :=
  if peer.isSome then some 36 else if dieOf src = dieOf dst then none else some (32 + dieOf dst)

/-- Is a fixed-latency result to a load's register, issued before the load, still in flight (R83)? Those of a context being saved hold
no load, since it is to land before the save. -/
def behindFlight (t : Thread) (m : Miss) : Bool :=
  match m.dest with
  | some d => !(t.life.saving.isSome && t.life.faulted.isNone) && t.pipe.flights.any (fun f => f.dest = d && f.id < m.id)
  | none => false

/-- A load's data replaces the older results to its register that a trap or a save took out of the pipelines: of these only the flags
still land (R83, R252; log entry 13). -/
def replaceOlder (l : List Flight) (m : Miss) : List Flight :=
  l.map (fun f => if m.dest = some f.dest && f.id < m.id then { f with mask := 0 } else f)

/-- A load lands: its register is written, its pending bit clears, its queue entry and miss register free, its delay is
added, and an acquire completes (R83, R84, R186, R208, R266). -/
def landMiss (s : State) (n : Nat) (m : Miss) : State :=
  let v := m.data.getD 0
  let s := s.modNet n (fun e => { e with misses := e.misses.filter (fun x => x.id ≠ m.id) })
  let s := s.modOwner n m.tid (fun t => { t with
    regs := match m.dest with | some d => t.regs.put d v | none => t.regs
    pipe := { t.pipe with
      pend := match m.dest with | some d => t.pipe.pend.filter (fun p => p ≠ d) | none => t.pipe.pend
      flights := replaceOlder t.pipe.flights m, lifted := replaceOlder t.pipe.lifted m }
    orderQ := settle (t.orderQ.filter (fun e => e.id ≠ m.id))
    reports := match m.soft with | some l => t.reports ++ [.soft (BitVec.ofNat 64 (physOf l))] | none => t.reports })
  let s := m.lats.foldl (fun s i => addLatency s n i) s
  if m.acq then acquireDone s n else s

/-- Mark a queue entry performed: a load stays until it lands, anything else leaves (R209, R210). -/
def markPerformed (s : State) (n tid id : Nat) (keep : Bool) : State :=
  s.modOwner n tid (fun t => { t with
    orderQ := settle (if keep then t.orderQ.map (fun e => if e.id = id then { e with perf := true } else e)
      else t.orderQ.filter (fun e => e.id ≠ id)) })

/-- The value of n bytes that a core reads at a key for a thread, its soft errors noted (R267). -/
def readWord (s : State) (n slot tid key len : Nat) : Nat × State :=
  let s := noteRead s (.core n) slot (some tid) key len
  (Memory.readLE s.mem key len, s)

/-- Start a load of the issuing thread under the next identity, which its queue entry takes too: its record and its
pending bit (R83, R84). -/
def startMiss (s : State) (m : Nat → Miss) : State :=
  let m := m s.sched.nextId
  let s := s.modNet s.cur.core (fun e => { e with misses := e.misses ++ [m] })
  match m.dest with
  | some d => if Dest.counts d then s.modCth (fun t => { t with pipe := { t.pipe with pend := t.pipe.pend ++ [d] } }) else s
  | none => s

/-- The completion of a class-L acquire two turns after its issue (R208). -/
def startAcquire (s : State) (t : Thread) : State :=
  let (id, s) := s.newId
  s.modNet s.cur.core (fun e => { e with misses := e.misses ++
    [⟨id, t.tid, none, false, true, some 2, 0, 0, false, 0, 0, none, [], some 0, none⟩] })

/-! ### Remote packets (R184, R239) -/

/-- Is a link trained (R317)? -/
def linkUp (s : State) (k : Nat) : Bool := match s.links[k]? with | some l => l.stat.getLsbD 1 | none => false

/-- The trained links of a peer-table entry (R317, R319). -/
def trainedLinks (s : State) (e : Word) : List Nat := (List.range 12).filter (fun k => e.getLsbD (48 + k) && linkUp s k)

/-- The link at position (s + t) mod m of the trained ones (R319). -/
def linkFor (l : List Nat) (src dst : Nat) : Option Nat := l[(src + dst) % l.length]?

/-- The peer of a class-G address; none for this package. An index that names no package any more still leads away from this one, to
no link (R181, R319). -/
def gRoute (s : State) (a : Word) : Option (BitVec 12) := if peerOf s (gPeer a) = .here then none else some (gPeer a)

/-- Is a route that of a packet (R239)? -/
def Route.carries (r : Route) (p : Packet) : Bool := r.pkg = p.pkg && r.src = p.src && r.dst = p.dst && some r.peer = p.peer

/-- Has the route of a packet other packets outstanding? Those of another package's routes are acknowledged past this one, so whether
any is outstanding is free (R319; log entry 17). -/
def routeBusy (s : State) (p : Packet) : Bool :=
  if p.pkg.isSome then Config.happens s.sched.fresh
  else s.net.any (fun q => q.src = p.src && q.dst = p.dst && q.peer = p.peer && q.id ≠ p.id && q.link.isSome &&
    (match q.cargo with | .sched => false | _ => true))

/-- The link of a route to a peer: the one it took since its entry was last written, while that is trained and the route has packets
outstanding, or the one of its entry; none where the entry names no other package (R319). -/
def routeLink (s : State) (p : Packet) : Option Nat :=
  match p.peer with
  | none => none
  | some i =>
    let l := trainedLinks s (assocGet s.bar.peers i.toNat 0)
    if peerOf s i ≠ .away then none
    else match s.routes.find? (fun r => r.carries p) with
      | some r => if routeBusy s p && l.contains r.link then some r.link else linkFor l p.src p.dst
      | none => linkFor l p.src p.dst

/-- A packet's route keeps the link that the packet took (R319). -/
def keepRoute (s : State) (p : Packet) : State :=
  match p.peer, p.link with
  | some i, some k => { s with routes := s.routes.filter (fun r => !r.carries p) ++ [⟨p.pkg, p.src, p.dst, i, k⟩] }
  | _, _ => s

/-- A packet for another package takes its link and leaves, or is held for want of a trained one (R244, R317, R319). -/
def takeLink (s : State) (p : Packet) : Packet × List Output :=
  match routeLink s p with
  | some k => ({ p with link := some k, held := none }, [.forwarded { p with link := some k, held := none, pkg := some Config.straps }])
  | none => ({ p with link := none, held := p.held.or (some (s.gtime + Config.absentHold)) }, [])

/-- A packet of the issuing slot's core leaves for a core (R239). -/
def sendPacket (s : State) (p : Nat → Packet) : State :=
  let (id, s) := s.newId
  let p := p id
  if p.peer.isNone then { s with net := s.net ++ [p] }
  else
    let (p, l) := takeLink s p
    keepRoute { s with net := s.net ++ [p], outputs := s.outputs ++ l } p

/-- Is any link trained (R317)? -/
def anyLink (s : State) : Bool := (List.range 12).any (linkUp s)

/-- The answer to a packet of another package leaves, or waits for a trained link (R317). -/
def sendAnswer (s : State) (p : Packet) (refused : Option (BitVec 16)) : State :=
  if anyLink s then { s with outputs := s.outputs ++ [.answered p refused] } else { s with answers := s.answers ++ [(p, refused)] }

/-- Packets whose link is down, or that are held for one, those of other packages too, are tried again in their order, and the answers
that wait for a link leave (R317 to R319). -/
def relink (s : State) : State :=
  let s := s.answers.foldl (fun s a => sendAnswer s a.1 a.2) { s with answers := [] }
  let s := (s.net.filter (fun p => p.peer.isSome && !p.landed && (match p.cargo with | .sched => false | _ => true) &&
      (match p.link with | some k => !linkUp s k | none => true))).foldl (fun s p =>
    let (q, l) := takeLink s p
    keepRoute { s with net := s.net.map (fun x => if x.id = p.id then q else x), outputs := s.outputs ++ l } q) s
  (s.inbound.filter (fun p => p.peer.isSome && (routeLink s p).isSome)).foldl (fun s p =>
    let s := s.tickFresh
    let q : Packet := { p with link := routeLink s p }
    keepRoute { s with
      inbound := s.inbound.filter (fun x => x.id ≠ p.id)
      outputs := s.outputs ++ [.forwarded { q with peer := none, held := none }] } q) s

/-- The packet of a queue entry of a thread; `va` is the address that a report about it names. -/
def entryPacket (s : State) (n : Nat) (t : Thread) (slot : Nat) (e : QEntry) (c : Cargo) (dst : Nat)
    (peer : Option (BitVec 12)) (va : Word) (id : Nat) : Packet :=
  { id := id, src := n
    tenant := match s.region t.task.rid with | some r => r.tenant | none => 0
    dst := dst, peer := peer, link := none
    svcn := match s.region t.task.rid with | some r => BitVec.ofNat 16 (r.cores.idxOf n) | none => 0
    pkg := none, strm := e.sid, val := va
    head := ⟨id, t.tid, t.task.rid, slot, t.ctl.pc, 0, [], false, e.sid, e.id, t.timed, t.mode = 0, none, 0⟩
    entry := some e.id, landed := false, held := none, heldFor := none, due := none, cargo := c }

end Sys2Proof.Machine
end

