-- ==== Sys2Proof/Machine/LoadStore.lean ====
section
/-! DEFINITION. Meanings of the L slot's loads and stores (R356, R357, R361 to R364, R397 to R400, R421 to R425). -/

namespace Sys2Proof.Machine

/-- The effect of a load of n bytes that its checks let through: from the scratchpad at issue with a counted latency, or
through the order queue under the pending bit; a read-cache hit that nothing blocks lands in three turns
(R83, R190, R361, R362). -/
def loadFrom (s : State) (t : Thread) (dest : Dest) (sid : BitVec 4) (n : Nat) (signed acq hit : Bool) (va : Word)
    (sp : Spot) : State :=
  let c := s.cur.core
  match sp with
  | .loc off =>
    let s := noteRead s (.core c) s.cur.slot (some t.tid) (keyL c off) n
    let m : Miss := ⟨0, t.tid, none, false, acq, none, 0, n, signed, allBits, 0, none, [], none, none⟩
    let s := pushFlight s dest (missValue m (Memory.readBytes s.mem (keyL c off) n) 0) allBits 2 fNone
    if acq then startAcquire s t else s
  | .core m off peer =>
    let s := startMiss s (fun id =>
      ⟨id, t.tid, some dest, true, acq, none, 0, n, signed, allBits, 0, none, (latOfRoute c m peer).toList, none, none⟩)
    pushQ s sid.toNat false acq (m = c && peer.isNone) (fun id => .remote (.load off n signed id) m peer va)
  | .gen key =>
    let id := s.sched.nextId
    let s := startMiss s (fun id =>
      ⟨id, t.tid, some dest, true, acq, none, key, n, signed, allBits, 0, none, [], none, none⟩)
    let s := pushQ s sid.toNat false acq false (fun id => .loadM id)
    match s.cth with
    | some u =>
      if hit && (cachedLine s.ccore key).isSome && unblocked u.orderQ id then
        markPerformed (modMiss (performLoad s c id) c id (fun m => { m with turns := some 3 })) c t.tid id true
      else s
    | none => s
  | _ => s

/-- The effect of a store of bytes that its checks let through: at issue on the scratchpad, otherwise posted
(R184, R397, R399, R400). -/
def storeTo (s : State) (sid : BitVec 4) (rel : Bool) (va : Word) (l : List Byte) (sp : Spot) : State :=
  let c := s.cur.core
  match sp with
  | .loc off => storeRaw s (plainBytes (keyL c off) l)
  | .core m off peer =>
    pushQ s sid.toNat rel false (m = c && peer.isNone) (fun _ => .remote (.store (plainBytes off l)) m peer va)
  | .gen key => pushQ s sid.toNat rel false false (fun _ => .storeM (plainBytes key l) va)
  | _ => s

/-- A scalar load (R356, R362). -/
def scalarLoad (s : State) (cl : Cl) (d a : Reg) (sid : BitVec 4) (off : BitVec 7) (g : Guard) (n : Nat)
    (signed : Bool) : State :=
  guarded s g (fun t =>
    let ea := eaOf s t a off n
    accessing s t sylL ⟨n, n, true, .cluster, none, none⟩ ea true false
      (fun s => loadFrom s t (Cl.reg cl d) sid n signed false false ea))

/-- A scalar store (R356, R397). -/
def scalarStore (s : State) (cl : Cl) (d a : Reg) (sid : BitVec 4) (off : BitVec 7) (g : Guard) (n : Nat) : State :=
  guarded s g (fun t =>
    let ea := eaOf s t a off n
    accessing s t sylL ⟨n, n, true, .tenant, none, none⟩ ea false false
      (fun s => storeTo s sid false ea (leBytes (t.regs.getS cl d).toNat n)))

/-- LDB (R362). -/
def execLdb (cl : Cl) (d a : Reg) (sid : BitVec 4) (off : BitVec 7) (g : Guard) (s : State) : Result :=
  .next (scalarLoad s cl d a sid off g 1 true)

/-- LDBU (R362). -/
def execLdbu (cl : Cl) (d a : Reg) (sid : BitVec 4) (off : BitVec 7) (g : Guard) (s : State) : Result :=
  .next (scalarLoad s cl d a sid off g 1 false)

/-- LDH (R362). -/
def execLdh (cl : Cl) (d a : Reg) (sid : BitVec 4) (off : BitVec 7) (g : Guard) (s : State) : Result :=
  .next (scalarLoad s cl d a sid off g 2 true)

/-- LDHU (R362). -/
def execLdhu (cl : Cl) (d a : Reg) (sid : BitVec 4) (off : BitVec 7) (g : Guard) (s : State) : Result :=
  .next (scalarLoad s cl d a sid off g 2 false)

/-- LDW (R362). -/
def execLdw (cl : Cl) (d a : Reg) (sid : BitVec 4) (off : BitVec 7) (g : Guard) (s : State) : Result :=
  .next (scalarLoad s cl d a sid off g 4 true)

/-- LDWU (R362). -/
def execLdwu (cl : Cl) (d a : Reg) (sid : BitVec 4) (off : BitVec 7) (g : Guard) (s : State) : Result :=
  .next (scalarLoad s cl d a sid off g 4 false)

/-- LDD (R362). -/
def execLdd (cl : Cl) (d a : Reg) (sid : BitVec 4) (off : BitVec 7) (g : Guard) (s : State) : Result :=
  .next (scalarLoad s cl d a sid off g 8 false)

/-- STB (R397). -/
def execStb (cl : Cl) (d a : Reg) (sid : BitVec 4) (off : BitVec 7) (g : Guard) (s : State) : Result :=
  .next (scalarStore s cl d a sid off g 1)

/-- STH (R397). -/
def execSth (cl : Cl) (d a : Reg) (sid : BitVec 4) (off : BitVec 7) (g : Guard) (s : State) : Result :=
  .next (scalarStore s cl d a sid off g 2)

/-- STW (R397). -/
def execStw (cl : Cl) (d a : Reg) (sid : BitVec 4) (off : BitVec 7) (g : Guard) (s : State) : Result :=
  .next (scalarStore s cl d a sid off g 4)

/-- STD (R397). -/
def execStd (cl : Cl) (d a : Reg) (sid : BitVec 4) (off : BitVec 7) (g : Guard) (s : State) : Result :=
  .next (scalarStore s cl d a sid off g 8)

/-! ### Vector loads and stores -/

/-- Pop source ports. -/
def popAll (s : State) (srcs : List Reg) : State := srcs.foldl popPort s

/-- An L syllable with vector operands, once its ports are ready; they pop when it takes effect (R81). -/
def vectorAccess (s : State) (g : Guard) (srcs : List Reg) (d : Option Reg) (f : Thread → State) : State :=
  guarded s g (fun t => if portsReady s t srcs d then f t else holdOrTiming s sylL)

/-- VLD: 64 bytes of the scratchpad (R423). -/
def execVld (d a : Reg) (sid : BitVec 4) (off : BitVec 7) (g : Guard) (s : State) : Result :=
  .next (vectorAccess s g [] (some d) (fun t =>
    let ea := eaOf s t a off 64
    accessing s t sylL ⟨64, 4, true, .no, none, none⟩ ea false false
      (fun s => loadFrom s t (vreg d) sid 64 false false false ea)))

/-- VST: 64 bytes to class L or G (R423). -/
def execVst (d a : Reg) (sid : BitVec 4) (off : BitVec 7) (g : Guard) (s : State) : Result :=
  .next (vectorAccess s g [d] none (fun t =>
    let ea := eaOf s t a off 64
    accessing s t sylL ⟨64, 4, true, .tenant, none, none⟩ ea false false
      (fun s sp =>
        let s := popAll s [d]
        storeTo s sid false ea (leBytes (vecOf s t d).toNat 64) sp)))

/-- A read-cache miss of LDG or VLDG, recorded every 2^MSAMP-th time (R274, R275). -/
def noteMiss (s : State) (t : Thread) (ea : Word) (sp : Spot) : State :=
  match sp with
  | .gen key =>
    if (cachedLine s.ccore key).isSome then s
    else
      let m := t.life.misses + 1
      let every := 2 ^ (s.ccore.rcd.ctl.extractLsb' 24 4).toNat
      let s := s.modCth (fun t => { t with life := { t.life with misses := m } })
      recordEvent s s.cur.core 0x10 s.cur.slot (s.tagOf t.task.rid) (aForm ea (s.domtick t % 2 ^ 32)) none (m % every = 0) (some t.tid)
  | _ => s

/-- VLDG: 64 bytes of class M through the read cache; TIMING in domain time (R425). -/
def execVldg (d a : Reg) (sid : BitVec 4) (off : BitVec 7) (g : Guard) (s : State) : Result :=
  .next (guarded s g (fun t =>
    let ea := eaOf s t a off 64
    if t.inDomain then trapCur s cTIMING sylL 0
    else accessing s t sylL ⟨64, 64, false, .no, some .r, none⟩ ea true false
      (fun s sp => loadFrom (noteMiss s t ea sp) t (vreg d) sid 64 false false true ea sp)))

/-- VSTG: 64 bytes posted to class M (R425). -/
def execVstg (d a : Reg) (sid : BitVec 4) (off : BitVec 7) (g : Guard) (s : State) : Result :=
  .next (vectorAccess s g [d] none (fun t =>
    let ea := eaOf s t a off 64
    accessing s t sylL ⟨64, 64, false, .no, some .w, none⟩ ea false false
      (fun s sp =>
        let s := popAll s [d]
        storeTo s sid false ea (leBytes (vecOf s t d).toNat 64) sp)))

/-! ### Lanes and bank passes (R55, R176, R422) -/

/-- The distinct words of a list of offsets, in the order of the lowest lane. -/
def distinctWords (l : List Nat) : List Nat := (l.map (fun o => o / 4)).eraseDups

/-- The pass that accesses a word: its place among the distinct words of its bank. -/
def passOf (words : List Nat) (w : Nat) : Nat := (words.filter (fun x => x % 16 = w % 16)).idxOf w

/-- The number of bank passes of lanes at these offsets. -/
def passCount (l : List Nat) : Nat :=
  let words := distinctWords l
  words.foldl (fun p w => max p (passOf words w + 1)) 0

/-- An atomic operation on w-bit values (R330, R410). -/
def aopApply (op : Aop) (w old opnd swap : Nat) : Nat :=
  match op with
  | .add => (old + opnd) % 2 ^ w
  | .and => old &&& opnd
  | .or => old ||| opnd
  | .xor => old ^^^ opnd
  | .min => if signedLane w old ≤ signedLane w opnd then old else opnd
  | .max => if signedLane w opnd ≤ signedLane w old then old else opnd
  | .minu => if old ≤ opnd then old else opnd
  | .maxu => if opnd ≤ old then old else opnd
  | .xchg => opnd
  | .cas => if old = opnd then swap else old

/-- One lane of a pass: a store, an atomic, or a load into its lane of the result in flight. -/
def doLane (s : State) (n k : Nat) (p : PassLane) : State :=
  let tid := match s.thread n k with | some t => t.tid | none => 0
  if p.store then storeRaw s (plainBytes p.key (leBytes p.data.toNat 4))
  else
    let (old, s) := readWord s n k tid p.key 4
    match p.aop with
    | some op => storeRaw s (plainBytes p.key (leBytes (aopApply op 32 old p.data.toNat 0) 4))
    | none =>
      s.modThread n k (fun t => { t with
        pipe := { t.pipe with flights := t.pipe.flights.map (fun f =>
          if f.id = p.flight then { f with val := f.val ||| BitVec.ofNat 512 (old * 2 ^ (32 * p.lane)) } else f) } })

/-- One pass of the access of slot k of core n, its lanes in ascending order. -/
def doPass (s : State) (n k : Nat) (l : List PassLane) : State := l.foldl (fun s p => doLane s n k p) s

/-- Make the first pass now and leave the others to the stalled turns, which STALLC counts (R55, R56, R422). -/
def startPasses (s : State) (lanes : List PassLane) : State :=
  let words := distinctWords (lanes.map (fun p => p.key))
  let p := passCount (lanes.map (fun p => p.key))
  let passes := (List.range p).map (fun i => lanes.filter (fun l => passOf words (l.key / 4) = i))
  let s := doPass s s.cur.core s.cur.slot (passes.getD 0 [])
  s.modCth (fun t => { t with
    ctl := { t.ctl with stallc := BitVec.ofNat 64 (min 0xFFFFFFFF (t.ctl.stallc.toNat + (p - 1))) }
    pipe := { t.pipe with passes := passes.drop 1, stallLeft := p - 1 } })

/-- The first failing lane of class-L lanes: ALIGN or PRIV with its address (R421). -/
def laneTrap (t : Thread) (k : Nat) (l : List Word) : Option (BitVec 16 × Word) :=
  match l with
  | [] => none
  | a :: r =>
    if a.toNat % 4 ≠ 0 then some (cALIGN, a)
    else if classOf a ≠ .l || !tailOk t k true a.toNat 4 then some (cPRIV, a)
    else laneTrap t k r

/-- 16 lanes of class L: the watermark rule, the lane checks, then the effect on the lanes' offsets (R236, R421, R424). -/
def laneAccess (s : State) (t : Thread) (stride : Option Word) (l : List Word) (f : State → List Nat → State) : State :=
  let wm := l.any (fun a => classOf a = .l && watermarked s.ccore a.toNat 4)
  if wm && t.inDomain then trapCur s cTIMING sylL 0
  else
    match stride with
    | some lane1 => trapCur s cALIGN sylL lane1
    | none =>
      match laneTrap t s.cur.slot l with
      | some (c, v) => trapCur s c sylL v
      | none => if wm || localPending s t then hold s else f s (l.map (fun a => a.toNat))

/-- Lane addresses of a stride (R424). -/
def strideLanes (t : Thread) (a s : Reg) : List Word :=
  (List.range 16).map (fun i => t.regs.getX a + BitVec.ofNat 64 i * t.regs.getX s)

/-- Lane addresses of an index vector (R421). -/
def indexLanes (t : Thread) (a : Reg) (v : Vec) : List Word :=
  (List.range 16).map (fun i => t.regs.getX a + BitVec.ofNat 64 (laneOf 32 v i))

/-- The address of lane 1 where the stride is no multiple of 4 (R424). -/
def badStride (t : Thread) (a s : Reg) : Option Word :=
  if (t.regs.getX s).toNat % 4 ≠ 0 then some (t.regs.getX a + t.regs.getX s) else none

/-- A load of 16 lanes at these offsets, landing in 2 + (P - 1) turns (R421, R424). -/
def gatherLanes (s : State) (d : Reg) (offs : List Nat) : State :=
  let id := s.sched.nextId
  let s := pushFlight s (vreg d) 0 allBits (1 + passCount offs) fNone
  startPasses s ((offs.zipIdx).map (fun e => ⟨keyL s.cur.core e.1, false, none, 0, e.2, id⟩))

/-- A store of 16 lanes at these offsets (R421, R424). -/
def scatterLanes (s : State) (v : Vec) (offs : List Nat) : State :=
  startPasses s ((offs.zipIdx).map (fun e =>
    ⟨keyL s.cur.core e.1, true, none, BitVec.ofNat 32 (laneOf 32 v e.2), e.2, 0⟩))

/-- VLDS (R424). -/
def execVlds (d a : Reg) (_sid : BitVec 4) (st : Reg) (g : Guard) (s : State) : Result :=
  .next (vectorAccess s g [] (some d) (fun t =>
    laneAccess s t (badStride t a st) (strideLanes t a st) (fun s offs => gatherLanes s d offs)))

/-- VSTS (R424). -/
def execVsts (d a : Reg) (_sid : BitVec 4) (st : Reg) (g : Guard) (s : State) : Result :=
  .next (vectorAccess s g [d] none (fun t =>
    laneAccess s t (badStride t a st) (strideLanes t a st) (fun s offs =>
      let s := popAll s [d]
      scatterLanes s (vecOf s t d) offs)))

/-- VGATH (R421). -/
def execVgath (d a : Reg) (_sid : BitVec 4) (i : Reg) (g : Guard) (s : State) : Result :=
  .next (vectorAccess s g [i] (some d) (fun t =>
    laneAccess s t none (indexLanes t a (vecOf (popAll s [i]) t i)) (fun s offs => gatherLanes (popAll s [i]) d offs)))

/-- VSCAT: the highest lane's data is kept where lanes meet (R421, R422). -/
def execVscat (d a : Reg) (_sid : BitVec 4) (i : Reg) (g : Guard) (s : State) : Result :=
  .next (vectorAccess s g [d, i] none (fun t =>
    laneAccess s t none (indexLanes t a (vecOf (popAll s [d, i]) t i)) (fun s offs =>
      let s := popAll s [d, i]
      scatterLanes s (vecOf s t d) offs)))

/-! ### Class-M scalars, acquires and releases -/

/-- The bytes of a width (R364). -/
def Width.bytes (wd : Width) : Nat := match wd with | .b => 1 | .h => 2 | .w => 4 | .d => 8

/-- LDG: a zero-extended load of class M; TIMING in domain time (R364). -/
def execLdg (wd : Width) (cl : Cl) (d a : Reg) (sid : BitVec 4) (off : BitVec 5) (g : Guard) (s : State) : Result :=
  .next (guarded s g (fun t =>
    let n := Width.bytes wd
    let ea := t.regs.getX a + off.signExtend 64 * BitVec.ofNat 64 n
    if t.inDomain then trapCur s cTIMING sylL 0
    else accessing s t sylL ⟨n, n, false, .no, some .r, none⟩ ea true false
      (fun s sp => loadFrom (noteMiss s t ea sp) t (Cl.reg cl d) sid n false false true ea sp)))

/-- STG: a posted store of class M (R399). -/
def execStg (wd : Width) (cl : Cl) (d a : Reg) (sid : BitVec 4) (off : BitVec 5) (g : Guard) (s : State) : Result :=
  .next (guarded s g (fun t =>
    let n := Width.bytes wd
    let ea := t.regs.getX a + off.signExtend 64 * BitVec.ofNat 64 n
    accessing s t sylL ⟨n, n, false, .no, some .w, none⟩ ea false false
      (fun s => storeTo s sid false ea (leBytes (t.regs.getS cl d).toNat n))))

/-- LDACQ: an 8-byte load that is an acquire (R208, R361). -/
def execLdacq (cl : Cl) (d a : Reg) (sid : BitVec 4) (off : BitVec 7) (g : Guard) (s : State) : Result :=
  .next (guarded s g (fun t =>
    let ea := eaOf s t a off 8
    accessing s t sylL ⟨8, 8, true, .cluster, some .r, none⟩ ea true (!releasesDone t)
      (fun s => loadFrom s t (Cl.reg cl d) sid 8 false true false ea)))

/-- STREL: an 8-byte store that is a release (R209, R400). -/
def execStrel (cl : Cl) (d a : Reg) (sid : BitVec 4) (off : BitVec 7) (g : Guard) (s : State) : Result :=
  .next (guarded s g (fun t =>
    let ea := eaOf s t a off 8
    accessing s t sylL ⟨8, 8, true, .tenant, some .w, none⟩ ea false (!releaseOpen s t)
      (fun s => storeTo s sid true ea (leBytes (t.regs.getS cl d).toNat 8))))

end Sys2Proof.Machine
end

