-- ==== Sys2Proof/Machine/Atomics.lean ====
section
/-! DEFINITION. Meanings of ATOM, VATOM and FENCE (R207, R329 to R333, R352, R410, R411), and the atomic action at a
location. -/

namespace Sys2Proof.Machine

/-- The bytes of an atomic's width. -/
def atomBytes (wide : Bool) : Nat := if wide then 8 else 4

/-- One atomic action on memory: the old value and the bytes written (R330). -/
def atomAct (s : State) (op : Aop) (wide : Bool) (key : Nat) (opnd swap : Word) : Nat × List (Nat × Byte × Byte) :=
  let n := atomBytes wide
  let old := Memory.readLE s.mem key n
  let new := aopApply op (8 * n) old (opnd.toNat % 2 ^ (8 * n)) (swap.toNat % 2 ^ (8 * n))
  (old, plainBytes key (leBytes new n))

/-- May an AOP reach a host page when the capability bit is set (R191)? -/
def Aop.onHost (op : Aop) : Bool := match op with | .add => true | .xchg => true | .cas => true | _ => false

/-- The logical index of a task (R297). -/
def taskLogical (t : Task) : Nat := t.c0.toNat + 2 ^ 16 * t.c1.toNat + 2 ^ 32 * t.c2.toNat

/-- A deterministic returning atomic is noted under its key (L, q); it arrives at its location now or later (R299). -/
def deferAtomic (s : State) (t : Thread) (now : Bool) (loc key : Nat) (op : Aop) (wide : Bool) (opnd swap : Word)
    (miss : Nat) : State :=
  { s with deferred := s.deferred ++
      [⟨loc, if now then some (s.coreClock s.cur.core) else none, taskLogical t.task, t.life.atoms, op, wide, key, opnd, swap,
        s.cur.core, miss⟩] }

/-- A returning atomic of a thread is counted (R299). -/
def countAtom (s : State) (d : Reg) : State :=
  if d = 0 then s else s.modCth (fun t => { t with life := { t.life with atoms := t.life.atoms + 1 } })

/-- An atomic that its checks let through: at issue on the scratchpad, otherwise posted; deterministic returning ones are
deferred, and stand in the thread's order until their batch performs them (R206, R299, R331). A returning one holds a miss
register (R83, R84). -/
def atomAt (s : State) (t : Thread) (op : Aop) (acq rel wide : Bool) (cl : Cl) (d : Reg) (sid : BitVec 4) (ea : Word)
    (sp : Spot) : State :=
  let c := s.cur.core
  let opnd := if d = 0 then 0 else t.regs.getS cl d
  let swap := if op = .cas then t.regs.getS cl (d + 1) else 0
  let n := atomBytes wide
  let miss (turns : Option Nat) (lats : List Nat) (data : Option Vec) (id : Nat) : Miss :=
    ⟨id, t.tid, some (Cl.reg cl d), true, acq, turns, 0, n, false, allBits, 0, none, lats, data, none⟩
  let id := s.sched.nextId
  let ret : Option Nat := if d = 0 then none else some id
  match sp with
  | .loc off =>
    if d ≠ 0 && t.det then
      let s := deferAtomic (startMiss s (miss none [] none)) t true c (keyL c off) op wide opnd swap id
      countAtom (pushQ s sid.toNat rel acq false (fun _ => .atomL)) d
    else
      let s := noteRead s (.core c) s.cur.slot (some t.tid) (keyL c off) n
      let (old, l) := atomAct s op wide (keyL c off) opnd swap
      let s := storeRaw s l
      if d = 0 then s
      else countAtom (startMiss s (miss (some 2) [] (some (BitVec.ofNat 512 old)))).newId.2 d
  | .core m off peer =>
    let s := if d = 0 then s else startMiss s (miss none (latOfRoute c m peer).toList none)
    let s := if d ≠ 0 && t.det then deferAtomic s t false m (keyL m off) op wide opnd swap id else s
    countAtom (pushQ s sid.toNat rel acq (m = c && peer.isNone)
      (fun _ => .remote (.atomic op wide off opnd swap ret) m peer ea)) d
  | .gen key =>
    let s := if d = 0 then s else startMiss s (miss none [latOf key] none)
    let s := if d ≠ 0 && t.det then deferAtomic s t false (3072 + homeSlice key) key op wide opnd swap id else s
    countAtom (pushQ s sid.toNat rel acq false (fun _ => .atomM op wide key opnd swap ret ea)) d
  | _ => s

/-- ATOM; one that traps makes neither its access nor its ordering (R222, R329 to R333). One of class L with acquire order holds its
slot, without TIMING in domain time, until every earlier release of its thread is performed (DESIGN CHOICE, unsafe: R208 has a
returning one performed after those releases with its slot not held, R331 executes it at issue; log entry 73). -/
def execAtom (op : Aop) (acq rel wide : Bool) (cl : Cl) (d a : Reg) (sid : BitVec 4) (g : Guard) (s : State) : Result :=
  .next (guarded s g (fun t =>
    let ea := t.regs.getX a
    let n := atomBytes wide
    accessing s t sylL ⟨n, n, true, .cluster, some .rw, some (Aop.onHost op)⟩ ea (d ≠ 0)
      ((rel && !releaseOpen s t) || (acq && !releasesDone t))
      (fun s => atomAt s t op acq rel wide cl d sid ea)))

/-! ### VATOM -/

/-- Do two lanes' places lie in one class, and for class G in one core (R411)? -/
def sameSpace (a b : Spot) : Bool :=
  match a, b with
  | .loc _, .loc _ => true
  | .core m _ p, .core n _ q => m = n && p = q
  | .loc _, _ => false
  | .core _ _ _, _ => false
  | _, .loc _ => false
  | _, .core _ _ _ => false
  | _, _ => true

/-- A lane's own failure: misaligned, no allowed class, or another class than lane 0 (R411). -/
def laneFails (first : Spot) (e : Word × Spot) : Option (BitVec 16 × Word) :=
  match e.2 with
  | .trap c v => if c = cATOMIC then none else some (c, v)
  | sp => if sameSpace first sp then none else some (cPRIV, e.1)

/-- The data lane and place of each lane, as class-M keys, scratchpad or remote offsets. -/
def laneWrites (l : List (BitVec 32 × Spot)) : List (Nat × BitVec 32) :=
  l.filterMap (fun e => match e.2 with
    | .gen k => some (k, e.1) | .loc o => some (o, e.1) | .core _ o _ => some (o, e.1) | _ => none)

/-- The lanes of a VATOM that its checks let through (R411). -/
def vatomAt (s : State) (op : Aop) (sid : BitVec 4) (eas : List Word) (data : List (BitVec 32)) (spots : List Spot) : State :=
  let lanes := laneWrites (data.zip spots)
  match spots.getD 0 .walk with
  | .loc _ =>
    startPasses s ((lanes.zipIdx).map (fun e => ⟨keyL s.cur.core e.1.1, false, some op, e.1.2, e.2, 0⟩))
  | .core m _ peer =>
    pushQ s sid.toNat false false (m = s.cur.core && peer.isNone) (fun _ => .remote (.vatom op lanes) m peer (eas.getD 0 0))
  | _ => pushQ s sid.toNat false false false (fun _ => .vatomM op lanes eas)

/-- VATOM: sixteen relaxed atomics, all translated and checked before any takes effect, in domain time too (R410, R411; log entry
19). -/
def execVatom (op : Aop) (d a : Reg) (sid : BitVec 4) (g : Guard) (s : State) : Result :=
  .next (guarded s g (fun t =>
    let f : Shape := ⟨4, 4, true, .tenant, some .rw, some (op = .add)⟩
    let addrs := indexLanes t a (t.regs.getV (d + 1))
    let spots := addrs.map (spotOf s t s.cur.core s.cur.slot f)
    let both := addrs.zip spots
    let b := addrs.any (fun ea => blocked s t sylL f ea false)
    if b && t.inDomain then trapCur s cTIMING sylL 0
    else
      match both.findSome? (laneFails (spots.getD 0 .walk)) with
      | some (c, v) => trapCur s c sylL v
      | none =>
        match both.find? (fun e => e.2 = .walk || e.2 = .fault) with
        | some (ea, .walk) => hold (askXlate s s.cur.core (pasidOf s t.task.rid) ea.toNat)
        | some (ea, _) => pageFault s t sylL ea false true
        | none =>
          match both.findSome? (fun e => match e.2 with | .trap c v => some (c, v) | _ => none) with
          | some (c, v) => trapCur s c sylL v
          | none =>
            if b || (spots.any (fun p => match p with | .loc _ => true | _ => false) && localPending s t) then hold s
            else
              let data := (List.range 16).map (fun i => BitVec.ofNat 32 (laneOf 32 (t.regs.getV d) i))
              vatomAt s op sid addrs data spots))

/-! ### FENCE -/

/-- FENCE.JOIN: accesses of the masked streams are ordered across it (R207). -/
def execFenceJoin (mask : BitVec 16) (g : Guard) (s : State) : Result :=
  .next (guarded s g (fun _ => pushQ s 0 false false false (fun _ => .fence false mask)))

/-- FENCE.LOOP: the slot holds until the thread's loop-back accesses and deferred class-L atomics on the masked streams are
performed; the hold never traps (R207, R299, R352). -/
def execFenceLoop (mask : BitVec 16) (g : Guard) (s : State) : Result :=
  .next (guarded s g (fun t =>
    if t.orderQ.any (fun e => (e.loop || e.isLocal) && !e.perf && mask.getLsbD e.sid) then hold s else s))

/-- FENCE.FULL: class-G and class-M accesses of every stream are ordered across it (R207). -/
def execFenceFull (g : Guard) (s : State) : Result :=
  .next (guarded s g (fun _ => pushQ s 0 false false false (fun _ => .fence true 0)))

end Sys2Proof.Machine
end

