-- ==== Sys2Proof/Machine/Blocks.lean ====
section
/-! DEFINITION. The K4 block family: quantising and decoding (R136 to R140). Elements are exact integer multiples of
2^-149, the least F32 subnormal. -/

namespace Sys2Proof.Machine

/-- A block element: a NaN, an infinity, or a multiple of 2^-149. -/
inductive BElem
  | nan | inf (neg : Bool) | val (x : Int)
  deriving DecidableEq, Repr

/-- A code of F32 or BF16 as a block element. -/
def bElemOf (f : Fmt) (c : Nat) : BElem :=
  match f.decode c with
  | .nan _ => .nan
  | .inf n => .inf n
  | .fin n m e => .val (scaled n m e (-149))

/-- A finite element, a NaN counting as 0 (R138). -/
def BElem.finite? (b : BElem) : Option Int := match b with | .nan => some 0 | .inf _ => none | .val x => some x

/-- The decoded magnitudes of the types, by index (R136). -/
def k4Mags (ty : Nat) : List Nat :=
  match ty with
  | 1 => [0, 1, 2, 3, 4, 6, 8, 12]
  | 2 => [0, 1, 2, 4, 8, 16, 32, 64]
  | _ => [0, 1, 2, 3, 4, 6, 8, 16]

/-- The decoded integer of a code (R136). -/
def k4Decode (ty code : Nat) : Int :=
  if ty = 0 then signedLane' 4 code
  else
    let m : Int := (k4Mags ty).getD (code % 8) 0
    if code / 8 % 2 = 1 then -m else m
where
  /-- A w-bit field as two's complement. -/
  signedLane' (w x : Nat) : Int := if x < 2 ^ (w - 1) then x else (x : Int) - 2 ^ w

/-- The codes of a type in ascending magnitude, sign bit 0 for zero. -/
def k4Codes (ty : Nat) : List Nat :=
  if ty = 0 then [0, 1, 15, 2, 14, 3, 13, 4, 12, 5, 11, 6, 10, 7, 9, 8]
  else [0, 1, 9, 2, 10, 3, 11, 4, 12, 5, 13, 6, 14, 7, 15]

/-- The ends of a type's decoded range (R138). -/
def k4Range (ty : Nat) : Int × Int :=
  match ty with | 0 => (-8, 7) | 1 => (-12, 12) | 2 => (-64, 64) | _ => (-16, 16)

/-- Does every finite element fit the range at exponent index s (e = s - 32)? -/
def k4Fits (ty s : Nat) (l : List BElem) : Bool :=
  let u : Int := 2 ^ (s + 117)
  l.all (fun b => match b.finite? with
    | some x => (k4Range ty).1 * u ≤ x && x ≤ (k4Range ty).2 * u
    | none => true)

/-- The block exponent's index s: the least that fits, within 0 to 63 (R138). -/
def k4Scale (ty : Nat) (l : List BElem) : Nat := ((List.range 64).find? (fun s => k4Fits ty s l)).getD 63

/-- The code nearest to an element, ties to the smaller magnitude; infinities take the end of their sign (R138). -/
def k4Nearest (ty s : Nat) (b : BElem) : Nat :=
  let u : Int := 2 ^ (s + 117)
  match b with
  | .inf neg => if ty = 0 then (if neg then 8 else 7) else (if neg then 15 else 7)
  | _ =>
    let x := (b.finite?).getD 0
    (k4Codes ty).foldl (fun best c =>
      if (x - k4Decode ty c * u).natAbs < (x - k4Decode ty best * u).natAbs then c else best) 0

/-- A quantised block: codes, exponent index, squared error in units of 2^-298, and exactness. -/
structure K4Block where
  ty : Nat
  s : Nat
  codes : List Nat
  err : Nat
  exact' : Bool
  deriving DecidableEq, Repr

/-- Quantise under one type (R138). -/
def k4Quantise (ty : Nat) (l : List BElem) : K4Block :=
  let s := k4Scale ty l
  let u : Int := 2 ^ (s + 117)
  let codes := l.map (k4Nearest ty s)
  let errs := (l.zip codes).map (fun p => match p.1.finite? with
    | some x => (x - k4Decode ty p.2 * u).natAbs
    | none => 1)
  ⟨ty, s, codes, (errs.map (fun e => e * e)).foldl (· + ·) 0, errs.all (fun e => e = 0)⟩

/-- Quantise under every type and keep the least error, ties to the lower type; an infinite element makes all four tie
(R139). -/
def k4Auto (l : List BElem) : K4Block :=
  let b0 := k4Quantise 0 l
  if l.any (fun b => match b with | .inf _ => true | _ => false) then b0
  else [1, 2, 3].foldl (fun best ty =>
    let b := k4Quantise ty l
    if b.err < best.err then b else best) b0

/-- Code bytes from codes, element 2j low (R137). -/
def k4Pack (l : List Nat) : List Nat :=
  match l with
  | [] => []
  | [a] => [a]
  | a :: b :: r => (a + 16 * b) :: k4Pack r

/-- The vector form of a block: 16 code bytes, the scale byte, zeros (R137). -/
def k4Bytes (b : K4Block) : List Nat := k4Pack b.codes ++ [b.ty * 64 + b.s] ++ List.replicate 47 0

/-- Element i of a block in vector form (R136, R137). -/
def k4Element (v : Nat) (i : Nat) : Int × Int :=
  let scale := v / 2 ^ 128 % 256
  let code := v / 2 ^ (4 * i) % 16
  (k4Decode (scale / 64) code, (scale % 64 : Nat) - 32)

/-- A decoded element as a code of a format, exactly (R140). -/
def k4Code (f : Fmt) (p : Int × Int) : Nat := (roundTo f 0 (p.1 < 0) p.1.natAbs p.2 false).1

end Sys2Proof.Machine
end

