-- ==== Sys2Proof/Machine/Tensors.lean ====
section
/-! DEFINITION. Tensor entries, tile tables, the layout unit, and the meanings of TLD and TST (R197 to R202, R405). -/

namespace Sys2Proof.Machine

/-- The fields of a tensor-table entry (R197). -/
structure Tensor where
  fmt : Nat
  rank : Nat
  valid : Bool
  ro : Bool
  local' : Bool
  fsh : Nat
  dims : List Nat
  ext : List Nat
  rid : BitVec 16
  ttab : Nat
  scale : Nat
  nfrm : Nat
  zeros : Bool
  deriving DecidableEq, Repr

/-- Bits [lo + n - 1 : lo] of an entry. -/
def entryField (v : Vec) (lo n : Nat) : Nat := (v.extractLsb' lo n).toNat

/-- An entry's fields from its 64 bytes (R197). -/
def parseTensor (v : Vec) : Tensor :=
  { fmt := entryField v 0 4, rank := entryField v 8 8, valid := v.getLsbD 16, ro := v.getLsbD 17, local' := v.getLsbD 18
    fsh := entryField v 24 8
    dims := [0, 1, 2, 3].map (fun d => entryField v (32 + 16 * d) 16)
    ext := [0, 1, 2, 3].map (fun d => entryField v (96 + 3 * d) 3)
    rid := v.extractLsb' 112 16, ttab := entryField v 128 64, scale := entryField v 192 64, nfrm := entryField v 256 32
    zeros := entryField v 4 4 = 0 && entryField v 19 5 = 0 && entryField v 108 4 = 0 && entryField v 288 224 = 0 }

/-- The element type of a format code below 8 (R103). -/
def etyOf (c : Nat) : Ety :=
  match c with
  | 0 => .i8 | 1 => .i16 | 2 => .i32 | 3 => .f32 | 4 => .bf16 | 5 => .f16 | 6 => .e4m3 | _ => .e5m2

/-- The bits of an element: 4 for K4. -/
def Tensor.bits (e : Tensor) : Nat := if e.fmt = 8 then 4 else laneBits (etyOf e.fmt)

/-- The bytes of a tile (R200). -/
def Tensor.tile (e : Tensor) : Nat := if e.fmt = 8 then 16 else 64

/-- The sum of a list. -/
def sumList (l : List Nat) : Nat := sumNat l

/-- The tile counts along each dimension (R200). -/
def Tensor.grid (e : Tensor) : List Nat := (e.dims.zip e.ext).map (fun p => (p.1 + 2 ^ p.2 - 1) / 2 ^ p.2)

/-- The number of tiles of the grid. -/
def Tensor.tiles (e : Tensor) : Nat := e.grid.foldl (· * ·) 1

/-- The rules of an entry (R197). -/
def Tensor.ok (e : Tensor) : Bool :=
  e.valid && e.zeros && e.fmt ≤ 8 && 1 ≤ e.rank && e.rank ≤ 4 &&
    (e.dims.zipIdx).all (fun p => if p.2 < e.rank then 1 ≤ p.1 else p.1 = 1) && e.ext.all (fun x => x ≤ 6) &&
    (if e.fmt = 8 then e.ext = [5, 0, 0, 0] else e.bits * 2 ^ sumList e.ext = 512) &&
    e.fsh ≤ 12 && e.tiles ≤ e.nfrm * 2 ^ e.fsh && e.ttab % 8 = 0 && 0x80000 ≤ e.ttab && e.ttab < 2 ^ 47 &&
    (e.fmt = 8 || e.scale = 0)

/-- TTBASE.BASE of a die as a BAR 2 offset; none with V = 0 (R198). -/
def ttbaseOf (s : State) (d : BitVec 2) : Option Nat :=
  let w := (s.die d).ttbase
  if w.getLsbD 63 then some ((w.extractLsb' 18 20).toNat * 2 ^ 18) else none

/-- The BAR 2 offset of an entry, as a trap value names it. -/
def entryAddr (s : State) (d : BitVec 2) (tid : Nat) : Word :=
  BitVec.ofNat 64 (((s.die d).ttbase.extractLsb' 18 20).toNat * 2 ^ 18 + 64 * (tid % 4096))

/-- Does a region's resolved tensor range hold an id (R18)? -/
def ttabHolds (r : Region) (tid : Nat) : Bool := r.tfirst ≤ tid && tid < r.tfirst + r.tcount

/-- May a region use an entry that `owner` owns (R201)? -/
def ownerOk (s : State) (rid owner : BitVec 16) (tid : Nat) : Bool :=
  rid = owner || (s.ancestry rid).any (fun r => r.rid = owner && ttabHolds r tid)

/-- An entry as an access of region `rid` finds it on a core: the layout unit's copy with its tiles, if it holds them, or the table's.
None is PRIV (R197, R198, R201, R202). -/
def findEntry (s : State) (n : Nat) (rid : BitVec 16) (tid : Nat) : Option (Tensor × Option (List Word)) :=
  let d := BitVec.ofNat 2 (dieOf n)
  match s.region rid with
  | none => none
  | some r =>
    if !ttabHolds r tid then none
    else
      match (s.core n).cache.held.find? (fun h => h.tid = tid && h.rid = rid) with
      | some h =>
        let e := parseTensor h.entry
        if e.ok && ownerOk s rid e.rid tid then some (e, h.tiles) else none
      | none =>
        match ttbaseOf s d with
        | none => none
        | some base =>
          let e := parseTensor (BitVec.ofNat 512 (Memory.readLE (soundMem s) (keyStack (base + 64 * tid)) 64))
          if e.ok && ownerOk s rid e.rid tid then some (e, none) else none

/-- The tile-table words of a small table, when every word is translated. -/
def readTiles (s : State) (n : Nat) (pasid : BitVec 20) (a count : Nat) : Option (List Word) :=
  match count with
  | 0 => some []
  | count + 1 =>
    match spotM s n pasid .r none (BitVec.ofNat 64 a) with
    | .gen key =>
      match readTiles s n pasid (a + 8) count with
      | some l => some (BitVec.ofNat 64 (Memory.readLE (soundMem s) key 8) :: l)
      | none => none
    | _ => none

/-- Put a copy into a layout unit of 16, the oldest unpinned one leaving; where 16 pinned ones stand, as nested timed regions may pin them,
a further one is not held (R202; DESIGN CHOICE: QUOTA counts one region, and R202 says nothing of several; log entries 12 and 57). -/
def holdCopy (l : List Held) (h : Held) : List Held :=
  let l := l.filter (fun x => !(x.tid = h.tid && x.rid = h.rid))
  if l.length < 16 then l ++ [h]
  else match l.find? (fun x => !x.pinned) with
    | some o => l.erase o ++ [h]
    | none => l

/-- Does a layout unit hold the entry, if not its tile table? -/
def entryHeld (s : State) (n : Nat) (rid : BitVec 16) (tid : Nat) : Bool :=
  (s.core n).cache.held.any (fun h => h.tid = tid && h.rid = rid)

/-- A miss fills the copy of an entry whose table has at most 64 entries (R202). -/
def fillHeld (s : State) (n : Nat) (rid : BitVec 16) (tid : Nat) : State :=
  match ttbaseOf s (BitVec.ofNat 2 (dieOf n)) with
  | none => s
  | some base =>
    let v : Vec := BitVec.ofNat 512 (Memory.readLE (soundMem s) (keyStack (base + 64 * tid)) 64)
    let e := parseTensor v
    if e.nfrm > 64 || entryHeld s n rid tid then s
    else match readTiles s n (pasidOf s rid) e.ttab e.nfrm with
      | none => s
      | some l => s.modCache n (fun c => { c with held := holdCopy c.held ⟨tid, rid, v, some l, false⟩ })

/-- The first word of the tile table that a miss of an entry is to copy whose page is not translated (R202). -/
def tableAsk (s : State) (n : Nat) (rid : BitVec 16) (e : Tensor) (tiles : Option (List Word)) : Option Word :=
  if tiles.isSome || 64 < e.nfrm then none
  else ((List.range e.nfrm).map (fun i => BitVec.ofNat 64 (e.ttab + 8 * i))).find? (fun va => spotM s n (pasidOf s rid) .r none va = .walk)

/-- The tile number of a coordinate; none outside the grid (R200). -/
def Tensor.tileNo (e : Tensor) (t : List Nat) : Option Nat :=
  let g := e.grid
  if (t.zip g).all (fun p => p.1 < p.2) then
    some (t.getD 0 0 + g.getD 0 1 * (t.getD 1 0 + g.getD 1 1 * (t.getD 2 0 + g.getD 2 1 * t.getD 3 0)))
  else none

/-- Is element j of a tile inside the tensor's dimensions? `t` are tile coordinates, `e` extents, `d` dimensions
(R200, R201). -/
def insideDims (j : Nat) (t e d : List Nat) : Bool :=
  match t, e, d with
  | t :: ts, e :: es, d :: ds => t * 2 ^ e + j % 2 ^ e < d && insideDims (j / 2 ^ e) ts es ds
  | _, _, _ => true

/-- The bits of a tile's elements that lie inside the dimensions (R201). -/
def Tensor.keep (e : Tensor) (t : List Nat) : Vec :=
  ofLanes e.bits ((List.range (2 ^ sumList e.ext)).map (fun j => if insideDims j t e.ext e.dims then 2 ^ e.bits - 1 else 0))

/-- The address of a tile from its tile-table word; none is a tile fault. Bits [62:48] of the word are ignored, and a frame need not be
aligned to its size (DESIGN CHOICE, unsafe: R199 wants zero bits and an aligned frame and names no trap for others; log
entry 65) (R199, R200). -/
def Tensor.addr (e : Tensor) (w : Word) (tn : Nat) : Option Word :=
  if w.getLsbD 63 then some ((w.extractLsb' 0 48).setWidth 64 + BitVec.ofNat 64 (e.tile * (tn % 2 ^ e.fsh))) else none

/-- The tile coordinates of x A + 1 or TCOORD (R201, R226). -/
def tileCoords (w : Word) : List Nat := [0, 1, 2, 3].map (fun i => (w.extractLsb' (16 * i) 16).toNat)

/-- What the layout unit finds for a tile: a trap, a missing translation, a page fault at an address, outside the grid, or
the tile's address and number (R200, R201). -/
inductive TileSpot
  | trap (cause : BitVec 16) (val : Word)
  | walk (va : Word)
  | fault (va : Word)
  | outside
  | at' (addr : Word) (tn : Nat)
  deriving DecidableEq, Repr

/-- The place of a tile of an entry (R199, R200). -/
def findTile (s : State) (n : Nat) (rid : BitVec 16) (tid : Nat) (e : Tensor) (tiles : Option (List Word))
    (t : List Nat) : TileSpot :=
  match e.tileNo t with
  | none => .outside
  | some tn =>
    let place (w : Word) : TileSpot :=
      match e.addr w tn with
      | some a => .at' a tn
      | none => .trap cXLATE (BitVec.ofNat 64 (2 ^ 63 + tid))
    match tiles with
    | some l => place (l.getD (tn / 2 ^ e.fsh) 0)
    | none =>
      let va : Word := BitVec.ofNat 64 (e.ttab + 8 * (tn / 2 ^ e.fsh))
      match spotM s n (pasidOf s rid) .r none va with
      | .gen key => place (BitVec.ofNat 64 (Memory.readLE (soundMem s) key 8))
      | .walk => .walk va
      | _ => .fault va

/-- The masked bytes of a vector from a key (R201). -/
def maskedBytes (key n : Nat) (v keep : Vec) : List (Nat × Byte × Byte) :=
  (((leBytes v.toNat n).zip (leBytes keep.toNat n)).zipIdx).filterMap (fun e =>
    if e.1.2 = 0 then none else some (key + e.2, e.1.1, e.1.2))

/-- A part of a tensor store goes to its place (R201). -/
def storePart (s : State) (sid : BitVec 4) (va : Word) (sp : Spot) (l : Nat → List (Nat × Byte × Byte)) : State :=
  match sp with
  | .loc off => storeRaw s (l (keyL s.cur.core off))
  | .core m off peer =>
    pushQ s sid.toNat false false (m = s.cur.core && peer.isNone) (fun _ => .remote (.store (l off)) m peer va)
  | .gen key => pushQ s sid.toNat false false false (fun _ => .storeM (l key) va)
  | _ => s

/-- Where the scale byte of a K4 tile goes, under the checks of its own access; none for another format. -/
def scaleSpot (s : State) (t : Thread) (e : Tensor) (tn : Nat) (g : GRule) (p : Perm) (k : Option Spot → State) : State :=
  if e.fmt = 8 then
    accessing s t sylL ⟨1, 1, true, g, some p, none⟩ (BitVec.ofNat 64 (e.scale + tn)) false false (fun _ sp => k (some sp))
  else k none

/-- The lines of an entry of the table and of its tile table that a miss reads: all of a table that is copied, otherwise the
words of the tiles (R190, R202). -/
def missLines (s : State) (n : Nat) (rid : BitVec 16) (tid : Nat) (e : Tensor) (tns : List Nat) : List Nat :=
  let entry := match ttbaseOf s (BitVec.ofNat 2 (dieOf n)) with
    | some b => if entryHeld s n rid tid then [] else [lineOf (keyStack (b + 64 * tid))]
    | none => []
  let words := if e.nfrm ≤ 64 then List.range e.nfrm else (tns.map (fun t => t / 2 ^ e.fsh)).eraseDups
  (entry ++ words.filterMap (fun i =>
    match spotM s n (pasidOf s rid) .r none (BitVec.ofNat 64 (e.ttab + 8 * i)) with
    | .gen key => some (lineOf key)
    | _ => none)).eraseDups

/-- A miss of the layout unit reads lines, for a thread's access or an engine's, and the unit may then hold the entry (R202, R267). -/
def readMissed (s : State) (n : Nat) (rid : BitVec 16) (tid ctx own : Nat) (lines : List Nat) : State :=
  fillHeld (lines.foldl (fun s l => noteRead s (.core n) ctx (some own) l 64) s) n rid tid

/-- An access reads the entry that it names and the layout unit does not hold: its soft errors (R202, R266, R267). -/
def noteEntry (s : State) (n : Nat) (rid : BitVec 16) (tid ctx own : Nat) : State :=
  match ttbaseOf s (BitVec.ofNat 2 (dieOf n)), s.region rid with
  | some b, some r =>
    if ttabHolds r tid && !entryHeld s n rid tid then noteRead s (.core n) ctx (some own) (keyStack (b + 64 * tid)) 64 else s
  | _, _ => s

/-- An access reads the words of the tile table of an entry that is not held: their soft errors (R202, R266, R267). -/
def noteWords (s : State) (n : Nat) (rid : BitVec 16) (tid ctx own : Nat) (e : Tensor) (held : Bool) (tns : List Nat) : State :=
  if held then s
  else (missLines s n rid tid e tns).foldl (fun s l => noteRead s (.core n) ctx (some own) l 64) s

/-- The replies to the reads of some lines add their samples (R190). -/
def sampleLines (s : State) (n : Nat) (lines : List Nat) : State := (lines.map latOf).foldl (fun s i => addLatency s n i) s

/-- The tile that a TLD or TST of the issuing thread names, after the checks of R201: the entry, whether it is held, and
its place. A table that is not held and has no translation is waited for (R192; log entry 19). -/
def withTile (s : State) (t : Thread) (a : Reg) (store : Bool)
    (k : State → Tensor → Nat → Bool → Option (Word × Nat) → State) : State :=
  let n := s.cur.core
  let x := t.regs.getX a
  let tid := x.toNat % 4096
  let va := entryAddr s (BitVec.ofNat 2 (dieOf n)) tid
  if x.toNat / 4096 ≠ 0 then trapCur s cPRIV sylL va
  else
    let s := noteEntry s n t.task.rid tid s.cur.slot t.tid
    match findEntry s n t.task.rid tid with
    | none => trapCur s cPRIV sylL va
    | some (e, tiles) =>
      if t.inDomain && !e.local' then trapCur s cTIMING sylL 0
      else if store && e.ro then trapCur s cPRIV sylL va
      else
        let wait (v : Word) : State := hold (askXlate s n (pasidOf s t.task.rid) v.toNat)
        match tableAsk s n t.task.rid e tiles with
        | some v => wait v
        | none =>
          let at4 := tileCoords (t.regs.getX (a + 1))
          let s := noteWords s n t.task.rid tid s.cur.slot t.tid e tiles.isSome (e.tileNo at4).toList
          match findTile s n t.task.rid tid e tiles at4 with
          | .trap c v => trapCur s c sylL v
          | .walk v => wait v
          | .fault v => pageFault s t sylL v false false
          | .outside => k s e tid tiles.isSome none
          | .at' ad tn => k s e tid tiles.isSome (some (ad, tn))

/-- A tensor load's result: counted when every part was read from the scratchpad through a held entry, otherwise through
the order queue under the pending bit (R201, R202). `lats` are the accumulators of the lines read for a missed entry. -/
def tileResult (s : State) (t : Thread) (d : Reg) (sid : BitVec 4) (held : Bool) (key n : Nat) (mask base : Vec)
    (scale : Option Nat) (lats : List Nat) : State :=
  if held && n = 0 && scale.isNone then pushFlight s (vreg d) base allBits 2 fNone
  else
    let s := startMiss s (fun id =>
      ⟨id, t.tid, some (vreg d), true, false, none, key, n, false, mask, base, scale, lats, none, none⟩)
    pushQ s sid.toNat false false false (fun id => .loadM id)

/-- Does a tensor load that needs a miss register find none (R70, R84)? -/
def tileBlocked (s : State) (t : Thread) (need : Bool) : Bool :=
  need && (!missFree s.ccore || queueFull s t 1)

/-- A miss of the issuing thread's access (R202, R267). -/
def missEntry (s : State) (t : Thread) (tid : Nat) (lines : List Nat) : State :=
  readMissed s s.cur.core t.task.rid tid s.cur.slot t.tid lines

/-- Is a place read or written through the order queue? -/
def Spot.queues (sp : Spot) : Bool := match sp with | .gen _ => true | .core _ _ _ => true | _ => false

/-- TLD: one tile of a tensor (R201, R405). -/
def execTld (d a : Reg) (sid : BitVec 4) (g : Guard) (s : State) : Result :=
  .next (guarded s g (fun t => withTile s t a false (fun s e tid held place =>
    let n := s.cur.core
    let lines := if held then [] else missLines s n t.task.rid tid e (place.map (fun p => p.2)).toList
    let fill (s : State) : State := if held then s else missEntry s t tid lines
    let lats := lines.map latOf
    match place with
    | none =>
      if tileBlocked s t (!held) then holdOrTiming s sylL
      else tileResult (fill s) t d sid held 0 0 0 0 none lats
    | some (ad, tn) =>
      let keep := e.keep (tileCoords (t.regs.getX (a + 1)))
      let f : Shape := ⟨e.tile, e.tile, true, .no, some .r, none⟩
      accessing s t sylL f ad true false (fun s sp =>
        scaleSpot s t e tn .no .r (fun sc =>
          if tileBlocked s t (!held || sp.queues || sc.any Spot.queues) then holdOrTiming s sylL
          else
            let s := fill s
            let scale := match sc with | some (.gen k) => some k | _ => none
            let (sbyte, s) : Vec × State := match sc with
              | some (.loc o) =>
                let (b, s) := readWord s n s.cur.slot t.tid (keyL n o) 1
                (BitVec.ofNat 512 b <<< 128, s)
              | _ => (0, s)
            match sp with
            | .loc off =>
              let (v, s) := readWord s n s.cur.slot t.tid (keyL n off) e.tile
              tileResult s t d sid held 0 0 0 ((BitVec.ofNat 512 v &&& keep) ||| sbyte) scale lats
            | .gen key => tileResult s t d sid held key e.tile keep sbyte scale lats
            | _ => s)))))

/-- TST: the elements inside the dimensions of one tile (R201, R405). A miss fills the copy of its entry too (R202). -/
def execTst (d a : Reg) (sid : BitVec 4) (g : Guard) (s : State) : Result :=
  .next (vectorAccess s g [d] none (fun t => withTile s t a true (fun s e tid held place =>
    let n := s.cur.core
    let lines := if held then [] else missLines s n t.task.rid tid e (place.map (fun p => p.2)).toList
    let fill (s : State) : State :=
      if held then s else sampleLines (missEntry s t tid lines) n lines
    match place with
    | none => popAll (fill s) [d]
    | some (ad, tn) =>
      let keep := e.keep (tileCoords (t.regs.getX (a + 1)))
      let f : Shape := ⟨e.tile, e.tile, true, .tenant, some .w, none⟩
      accessing s t sylL f ad false false (fun s sp =>
        scaleSpot s t e tn .tenant .w (fun sc =>
          let places := (if sp.queues then 1 else 0) + (if sc.any Spot.queues then 1 else 0)
          if 0 < places && queueFull s t places then holdOrTiming s sylL
          else
            let s := popAll (fill s) [d]
            let v := vecOf s t d
            let s := storePart s sid ad sp (fun k => maskedBytes k e.tile v keep)
            match sc with
            | some c => storePart s sid (BitVec.ofNat 64 (e.scale + tn)) c (fun k => [(k, (v >>> 128).setWidth 8, 0xFF)])
            | none => s)))))

end Sys2Proof.Machine
end

