-- ==== Sys2Proof/Machine/Matrix.lean ====
section
/-! DEFINITION. The arithmetic of the matrix gangs: packing of A and B, block sums, the windowed accumulator, and the
conversion of its elements (R141 to R143, R147 to R150, R155 to R161). -/

namespace Sys2Proof.Machine

/-! ### Element values and packing (R141, R142, R143) -/

/-- An element as m × 2^e; none for a NaN or an infinity (R143). -/
def elementValue (ty code : Nat) : Option (Int × Int) :=
  match ty with
  | 0 => some (signedLane 8 code, 0)
  | 1 => some (signedLane 16 code, 0)
  | 2 => some (signedLane 32 code, 0)
  | _ =>
    match (fmtOf (etyOf ty)).decode code with
    | .fin n m e => some (if n then -(m : Int) else m, e)
    | _ => none

/-- floor(log2 |v|) of a non-zero m × 2^e. -/
def leadOf (v : Int × Int) : Int := (Nat.log2 v.1.natAbs : Int) + v.2

/-- A packed block: integers, exponent, loss, and a non-finite element. -/
structure PackedBlock where
  ints : List Int
  exp : Int
  loss : Bool
  nan : Bool
  deriving DecidableEq, Repr

/-- sign(v) × floor(|v| / 2^q), and whether a non-zero bit was dropped. -/
def packElement (q : Int) (v : Int × Int) : Int × Bool :=
  let d := q - v.2
  if d ≤ 0 then (v.1 * 2 ^ (-d).toNat, false)
  else
    let m := v.1.natAbs / 2 ^ d.toNat
    (if v.1 < 0 then -(m : Int) else m, v.1.natAbs % 2 ^ d.toNat ≠ 0)

/-- Pack a block so that its largest lead lands at bit `top` (R141 with 6, R142 with ABITS - 2); a block of zeros has
exponent 0. -/
def packBlock (top : Nat) (l : List (Option (Int × Int))) : PackedBlock :=
  let vals := l.map (fun v => v.getD (0, 0))
  let leads := (vals.filter (fun v => v.1 ≠ 0)).map leadOf
  let nan := l.any (fun v => v.isNone)
  match leads with
  | [] => ⟨vals.map (fun _ => 0), 0, false, nan⟩
  | x :: r =>
    let q := r.foldl max x - top
    let p := vals.map (packElement q)
    ⟨p.map (fun e => e.1), q, p.any (fun e => e.2), nan⟩

/-- Cut a list into blocks of 32. -/
def blocksOf (fuel : Nat) (l : List α) : List (List α) :=
  match fuel with
  | 0 => []
  | fuel + 1 => l.take 32 :: blocksOf fuel (l.drop 32)

/-- A row of A: 512 elements packed under ABITS (R142). -/
def packRow (abits : Nat) (l : List (Option (Int × Int))) : RowPack :=
  let b := (blocksOf 16 l).map (packBlock (abits - 2))
  ⟨(b.map (fun p => p.ints)).flatten, b.map (fun p => p.exp), b.any (fun p => p.loss), b.any (fun p => p.nan)⟩

/-! ### B images (R148, R149) -/

/-- The bytes of one macro's image by format. -/
def macroBytes (bfmt : Nat) : Nat := if bfmt = 1 then 0x4400 else if bfmt ≤ 3 then 0x8000 else 0x10000

/-- The element type code of a B format that is not K4. -/
def bfmtType (bfmt : Nat) : Nat := match bfmt with | 0 => 0 | 2 => 6 | 3 => 7 | 4 => 4 | _ => 5

/-- Block q of local column c of a macro image at key `a` (R141, R148). -/
def loadBlock (m : List Host.Cell) (a bfmt c q : Nat) : PackedBlock :=
  if bfmt = 1 then
    let codes := Memory.readLE m (a + 16 * (16 * c + q)) 16
    let scale := (Memory.read m (a + 16384 + 16 * c + q)).toNat
    ⟨(List.range 32).map (fun i => k4Decode (scale / 64) (codes / 2 ^ (4 * i) % 16)), (scale % 64 : Nat) - 32, false, false⟩
  else
    let ty := bfmtType bfmt
    let size := laneBits (etyOf ty) / 8
    let l := (List.range 32).map (fun i =>
      elementValue ty (Memory.readLE m (a + size * (64 * (32 * q + i) + c)) size))
    if bfmt = 0 then ⟨l.map (fun v => (v.getD (0, 0)).1), 0, false, false⟩ else packBlock 6 l

/-- Put a column's weights into a matrix store. -/
def loadColumn (m : List Host.Cell) (a bfmt mac : Nat) (x : Matrix) (c : Nat) : Matrix :=
  let b := (List.range 16).map (loadBlock m a bfmt c)
  let col := 64 * mac + c
  { x with
    cim := assocSet x.cim col ((b.map (fun p => p.ints)).flatten)
    eb := assocSet x.eb col (b.map (fun p => p.exp))
    bloss := x.bloss ++ ((b.zipIdx).filter (fun p => p.1.loss)).map (fun p => 16 * col + p.2)
    bnan := if b.any (fun p => p.nan) then x.bnan ++ [col] else x.bnan }

/-- A macro with zero weights, zero exponents and no loss (R149). -/
def zeroMacro (x : Matrix) (mac : Nat) : Matrix :=
  let inside (col : Nat) : Bool := col / 64 = mac
  { x with
    cim := x.cim.filter (fun e => !inside e.1)
    eb := x.eb.filter (fun e => !inside e.1)
    bloss := x.bloss.filter (fun i => !inside (i / 16))
    bnan := x.bnan.filter (fun c => !inside c)
    src := x.src.filter (fun e => e.1 ≠ mac) }

/-- Load a macro from its image at key `a`, and note its local offset and format (R148, R149). -/
def loadMacro (m : List Host.Cell) (a bfmt mac : Nat) (x : Matrix) : Matrix :=
  let x := (List.range 64).foldl (loadColumn m a bfmt mac) (zeroMacro x mac)
  { x with src := assocSet x.src mac (a % 0x80000, bfmt) }

/-- One weight of a macro's column as its image at key `a` now holds it. -/
def reloadWeight (m : List Host.Cell) (a bfmt mac row : Nat) (x : Matrix) (c : Nat) : Matrix :=
  let w := ((loadBlock m a bfmt c (row / 32)).ints.getD (row % 32) 0)
  let col := 64 * mac + c
  { x with cim := assocSet x.cim col ((assocGet x.cim col (List.replicate 512 0)).set row w) }

/-- A row of a macro is written again from the image of its last load; none was loaded, nothing is written (R149, R169). -/
def reloadRow (m : List Host.Cell) (n mac row : Nat) (x : Matrix) : Matrix :=
  match x.src.find? (fun e => e.1 = mac) with
  | some (_, off, bfmt) => (List.range 64).foldl (reloadWeight m (keyL n off) bfmt mac row) x
  | none => x

/-- The macros of a mask, in ascending index. -/
def macrosOf (mask : BitVec 4) : List Nat := (List.range 4).filter (fun q => mask.getLsbD q)

/-- Load the macros of a mask from the B image at offset `off` of core n (R148). -/
def loadImage (m : List Host.Cell) (n off : Nat) (mask : BitVec 4) (x : Matrix) : Matrix :=
  let bfmt := (Memory.read m (keyL n off)).toNat
  ((macrosOf mask).zipIdx).foldl (fun x e => loadMacro m (keyL n (off + 64 + e.2 * macroBytes bfmt)) bfmt e.1 x) x

/-- Does a B image pass the checks made at the head of the queue (R149)? -/
def imageOk (m : List Host.Cell) (n : Nat) (addr : Word) (mask : BitVec 4) : Bool :=
  let a := addr.toNat
  let bfmt := (Memory.read m (keyL n a)).toNat
  a % 64 = 0 && a + 64 ≤ 0x78000 && bfmt ≤ 5 && (Memory.readBytes m (keyL n (a + 1)) 63).all (fun b => b = 0) &&
    a + 64 + (macrosOf mask).length * macroBytes bfmt ≤ 0x78000

/-! ### The windowed accumulator (R155, R156) -/

/-- WIN as R89 resolves it. -/
def winOf (mxcfg : Word) : Nat :=
  let w := (mxcfg.extractLsb' 0 6).toNat
  if w = 0 then 64 else max 16 w

/-- ABITS (R89). -/
def abitsOf (mxcfg : Word) : Nat := (mxcfg.extractLsb' 6 5).toNat

/-- OUTFMT (R89). -/
def outfmtOf (mxcfg : Word) : Nat := (mxcfg.extractLsb' 11 4).toNat

/-- Ks = 2^KNS (R145). -/
def ksOf (mxcfg : Word) : Nat := 2 ^ (mxcfg.extractLsb' 18 4).toNat

/-- Shift from floor f to floor f + d, toward minus infinity, and whether a non-zero bit was lost (R156). -/
def ashr (v d : Int) : Int × Bool :=
  if d ≥ 0 then (v / 2 ^ d.toNat, v % 2 ^ d.toNat ≠ 0) else (v * 2 ^ (-d).toNat, false)

/-- Saturate to WIN + 16 bits (R156). -/
def satSum (win : Nat) (v : Int) : Int × Bool :=
  let top : Int := 2 ^ (win + 15)
  if v > top - 1 then (top - 1, true) else if v < -top then (-top, true) else (v, false)

/-- Merge an arrival into an element (R156). -/
def mergeElem (win : Nat) (acc arr : Elem) : Elem :=
  let acc := { acc with lsa := acc.lsa || arr.lsa, lsp := acc.lsp || arr.lsp, ovf := acc.ovf || arr.ovf,
                        nan := acc.nan || arr.nan }
  if arr.empty then acc
  else
    let tn := if acc.empty then arr.t else max acc.t arr.t
    let fn := tn - win
    let (sa, lost1) := if acc.empty then (0, false) else ashr acc.s (fn - acc.f)
    let (sb, lost2) := ashr arr.s (fn - arr.f)
    let (sum, o) := satSum win (sa + sb)
    { acc with s := sum, f := fn, t := tn, empty := false, lsa := acc.lsa || lost1 || lost2, ovf := acc.ovf || o }

/-- A dot product of two lists. -/
def dotInts (a b : List Int) : Int :=
  match a, b with
  | x :: a, y :: b => x * y + dotInts a b
  | _, _ => 0

/-- The arrival of one block: none where either side's integers are all zero (R150). -/
def blockArrival (a b : List Int) (e : Int) : Option Elem :=
  if a.all (fun x => x = 0) || b.all (fun x => x = 0) then none
  else some ⟨dotInts a b, e, e + 27, false, false, false, false, false⟩

/-- Merge the arrivals of blocks in ascending order, each with the B-pack loss of its block (R150, R157). -/
def mergeBlocks (win : Nat) (acc : Elem) (a b : List (List Int)) (ea eb : List Int) (loss : List Bool) : Elem :=
  match a, b, ea, eb, loss with
  | x :: a, y :: b, p :: ea, q :: eb, l :: loss =>
    let acc := match blockArrival x y (p + q) with | some arr => mergeElem win acc { arr with lsp := l } | none => acc
    mergeBlocks win acc a b ea eb loss
  | _, _, _, _, _ => acc

/-- The weights of a column. -/
def columnOf (x : Matrix) (c : Nat) : List Int := assocGet x.cim c (List.replicate 512 0)

/-- The block exponents of a column. -/
def columnExps (x : Matrix) (c : Nat) : List Int := assocGet x.eb c (List.replicate 16 0)

/-- The step partial of an element: a row against a column of a member. A loss of the row and non-finite elements mark it
whether or not a block arrives; the loss of a block of B comes with its arrival (R142, R143, R150, R157). -/
def stepPartial (win : Nat) (x : Matrix) (r : RowPack) (c : Nat) : Elem :=
  let start := { Elem.clear with lsp := r.loss, nan := r.nan || x.bnan.contains c }
  mergeBlocks win start (blocksOf 16 r.ints) (blocksOf 16 (columnOf x c)) r.ea (columnExps x c)
    ((List.range 16).map (fun q => x.bloss.contains (16 * c + q)))

/-- A set's element (R155). -/
def elemOf (x : Matrix) (set : Bool) (i : Nat) : Elem := assocGet (if set then x.acc1 else x.acc0) i Elem.clear

/-- Store an element, leaving out a clear one. -/
def putElem (l : List (Nat × Elem)) (i : Nat) (e : Elem) : List (Nat × Elem) :=
  if e = Elem.clear then assocErase l i else assocSet l i e

/-- The fresh partial of a K group for element (row i, column c): its members' partials in ascending kp (R157). -/
def groupPartial (win : Nat) (ms : List (Matrix × List RowPack)) (i c : Nat) : Elem :=
  ms.foldl (fun acc m => mergeElem win acc (match m.2[i]? with | some r => stepPartial win m.1 r c | none => Elem.clear))
    Elem.clear

/-- A reducing core's matrix after a step into a set: every element merged, SCNT one more (R155, R157). -/
def mergeStep (win : Nat) (set : Bool) (ms : List (Matrix × List RowPack)) (x : Matrix) : Matrix :=
  let acc := (List.range 4096).foldl (fun l i =>
    putElem l i (mergeElem win (assocGet l i Elem.clear) (groupPartial win ms (i / 256) (i % 256))))
    (if set then x.acc1 else x.acc0)
  if set then { x with acc1 := acc, scnt1 := x.scnt1 + 1 } else { x with acc0 := acc, scnt0 := x.scnt0 + 1 }

/-- A set cleared (R155). -/
def clearSet (x : Matrix) (set : Bool) : Matrix :=
  if set then { x with acc1 := [], scnt1 := 0 } else { x with acc0 := [], scnt0 := 0 }

/-! ### Results (R158, R159, R160, R161) -/

/-- The flag nibble of an element (R158). -/
def flagNibble (e : Elem) : Nat :=
  (if e.lsa then 1 else 0) + (if e.lsp then 2 else 0) + (if e.ovf then 4 else 0) + (if e.nan then 8 else 0)

/-- The OR of the nibbles of a set. -/
def setNibbles (l : List (Nat × Elem)) : Nat := l.foldl (fun a e => a ||| flagNibble e.2) 0

/-- The output format of an OUTFMT code; none for the integer ones. -/
def outFmt (code : Nat) : Option Fmt :=
  match code with | 0 => some fmtF32 | 1 => some fmtBF16 | 2 => some fmtF16 | 3 => some fmtE4M3 | _ => none

/-- The bits of an output element. -/
def outBits (code : Nat) : Nat := match code with | 0 => 32 | 1 => 16 | 2 => 16 | 3 => 8 | 4 => 32 | _ => 8

/-- An element converted to an output format (R159). -/
def convertElem (code : Nat) (osh : Int) (e : Elem) : Nat :=
  let s := if e.empty then 0 else e.s
  match outFmt code with
  | some f => if e.nan then f.nanCode else (roundTo f 0 (s < 0) s.natAbs e.f false).1
  | none =>
    if e.nan then 0
    else
      let w := outBits code
      let q := (roundAt 0 (s < 0) s.natAbs (e.f - osh) 0 false).1
      let v : Int := if s < 0 then -(q : Int) else q
      wrapLane w (max (-(2 ^ (w - 1))) (min (2 ^ (w - 1) - 1) v))

/-- The chunks of an emitted set, in row and then column order (R160). -/
def emitChunks (code : Nat) (osh : Int) (x : Matrix) (set : Bool) : List Vec :=
  let w := outBits code
  let per := 512 / w
  (List.range (4096 / per)).map (fun c =>
    ofLanes w ((List.range per).map (fun j => convertElem code osh (elemOf x set (c * per + j)))))

/-- What MXRD returns: 16 elements of a row as F32, with SCNT (R161). -/
def snapshotRow (x : Matrix) (sel : Word) : Vec × Word :=
  let set := sel.getLsbD 0
  let base := 256 * (sel.extractLsb' 1 4).toNat + 16 * (sel.extractLsb' 5 4).toNat
  (ofLanes 32 ((List.range 16).map (fun j => convertElem 0 0 (elemOf x set (base + j)))),
    (if set then x.scnt1 else x.scnt0).setWidth 64)

/-- What MXFLG returns: the flag nibbles of half a row (R161). -/
def snapshotFlags (x : Matrix) (sel : Word) : Vec :=
  let base := 256 * (sel.extractLsb' 1 4).toNat + 128 * (sel.extractLsb' 5 1).toNat
  ofLanes 4 ((List.range 128).map (fun j => flagNibble (elemOf x (sel.getLsbD 0) (base + j))))

end Sys2Proof.Machine
end

