-- ==== Sys2Proof/Machine/Control.lean ====
section
/-! DEFINITION. Meanings of the C slot's branches, predicate logic, barrier arrivals, sequence counters, traps, returns,
ends, marks and gang barriers (R334 to R338, R359, R360, R365, R368, R379, R383 to R388, R404, R406, R407). -/

namespace Sys2Proof.Machine

/-! ### Branches (R334) -/

/-- A taken branch: the slot's next bundle and the sampled BRANCHT event (R274, R334). -/
def branchTo (s : State) (t : Thread) (target : Word) : State :=
  let b := t.life.branches + 1
  let every := 2 ^ (s.ccore.rcd.ctl.extractLsb' 28 4).toNat
  let s := s.modCth (fun t => { t with life := { t.life with branches := b } })
  let s := recordEvent s s.cur.core 0x05 s.cur.slot (s.tagOf t.task.rid)
    (cForm ((target.extractLsb' 5 21).toNat) t.ctl.pc (s.domtick t)) (some (t.ctl.pc.extractLsb' 5 29)) (b % every = 0)
    (some t.tid)
  { s with cur := { s.cur with next := target } }

/-- The target of a relative branch (R335). -/
def relTarget (t : Thread) (off : BitVec 22) : Word := t.ctl.pc + off.signExtend 64 * 32

/-- BR (R335). -/
def execBr (off : BitVec 22) (g : Guard) (s : State) : Result :=
  .next (guarded s g (fun t => branchTo s t (relTarget t off)))

/-- CALL: a branch that writes x31 := PC + 32 (R338). -/
def execCall (off : BitVec 22) (g : Guard) (s : State) : Result :=
  .next (guarded s g (fun t =>
    branchTo (pushFlight s (.x 31) ((t.ctl.pc + 32).setWidth 512) allBits 1 fNone) t (relTarget t off)))

/-- A branch to x A; low bits set trap ALIGN with the target (R111, R337, R383). -/
def branchReg (s : State) (a : Reg) (g : Guard) : State :=
  guarded s g (fun t =>
    let target := t.regs.getX a
    if target.toNat % 32 ≠ 0 then trapCur s cALIGN sylC target else branchTo s t target)

/-- RET (R383). -/
def execRet (a : Reg) (g : Guard) (s : State) : Result := .next (branchReg s a g)

/-- BRX (R337). -/
def execBrx (a : Reg) (g : Guard) (s : State) : Result := .next (branchReg s a g)

/-! ### Predicate and mask logic (R368, R379) -/

/-- The operations on words; a predicate is bit 0. -/
def logOp (op : LogOp) (a b : Word) : Word :=
  match op with
  | .and => a &&& b | .or => a ||| b | .xor => a ^^^ b | .andn => a &&& ~~~b | .not => ~~~a

/-- PLOG (R379). -/
def execPlog (op : LogOp) (d a b : BitVec 3) (g : Guard) (s : State) : Result :=
  .next (predOp s d 1 g (fun t =>
    let w (p : BitVec 3) : Word := if t.regs.getP p then 1 else 0
    ((logOp op (w a) (w b)).getLsbD 0, fNone)))

/-- MLOG, on all 64 bits (R368). -/
def execMlog (op : LogOp) (d a b : BitVec 3) (g : Guard) (s : State) : Result :=
  .next (intOp s (.m d) 1 g (fun t => logOp op (t.regs.getM a) (t.regs.getM b)))

/-! ### Arrivals and sequence counters -/

/-- One arrival at the barrier object at an offset of a core, one atomic action, by a slot or engine of thread `own`
(R219, R230). -/
def arriveAt (s : State) (n off ctx : Nat) (own : Option Nat) : State :=
  let key := keyL n off
  let s := noteRead s (.core n) ctx own key 12
  let expected := Memory.readLE s.mem key 4
  let arrived := Memory.readLE s.mem (key + 4) 4
  let phase := Memory.readLE s.mem (key + 8) 4
  if expected ≤ arrived + 1 then
    storeRaw s (plainBytes (key + 4) (leBytes 0 4 ++ leBytes ((phase + 1) % 2 ^ 32) 4))
  else storeRaw s (plainBytes (key + 4) (leBytes (arrived + 1) 4))

/-- ARRIVE: a release; at issue on class L, posted on class G (R231, R328). -/
def execArrive (a : Reg) (g : Guard) (s : State) : Result :=
  .next (guarded s g (fun t =>
    let ea := t.regs.getX a
    accessing s t sylC ⟨16, 16, true, .tenant, none, none⟩ ea false (!releaseOpen s t) (fun s sp =>
      match sp with
      | .loc off => arriveAt s s.cur.core off s.cur.slot (some t.tid)
      | .core m off peer =>
        pushQ s 16 true false (m = s.cur.core && peer.isNone) (fun _ => .remote (.arrive off) m peer ea)
      | _ => s)))

/-- The pool of a thread's region: its address and length (R18, R30). -/
def poolOf (s : State) (rid : BitVec 16) : Word × Nat :=
  match s.region rid with | some r => (r.pool, r.pooln) | none => (0, 0)

/-- The address of a counter (R30, R385). -/
def counterAddr (s : State) (rid : BitVec 16) (idx : Word) : Word := (poolOf s rid).1 + 8 * idx

/-- SEQADD: posted, a release; an index outside the pool traps PRIV with the index (R385). -/
def execSeqadd (a b : Reg) (g : Guard) (s : State) : Result :=
  .next (guarded s g (fun t =>
    let idx := t.regs.getX a
    let amount := t.regs.getX b
    if idx.toNat / 2 ^ 20 ≠ 0 || (poolOf s t.task.rid).2 ≤ idx.toNat then trapCur s cPRIV sylC idx
    else
      let va := counterAddr s t.task.rid idx
      accessing s t sylC ⟨8, 8, false, .no, some .rw, none⟩ va false false (fun s sp =>
        match sp with
        | .gen key =>
          pushQ s 16 true false false (fun _ => .seqadd (some key) va amount)
        | _ => s)))

/-! ### Ends, traps and returns -/

/-- A counter index that means none (R31, R43). -/
def noCounter : Nat := 0xFFFFF

/-- Is a TRAP of a timed thread waiting for its freeze (R63)? -/
def trapPending (t : Thread) : Bool := t.reports.any (fun r => match r with | .trap _ => true | _ => false)

/-- TRAP: the bundle issues whole and the cause is taken before the next one, in a handler as a region-fatal one; in a timed domain it
raises a freeze, and a second TRAP before the freeze is TIMING (R63, R250, R406, R407). -/
def execTrap (code : BitVec 17) (g : Guard) (s : State) : Result :=
  .next (guarded s g (fun t =>
    if t.mode ≠ 0 then s.modCth (fun t => { t with reports := t.reports ++ [.handlerTrap (code.setWidth 64)] })
    else if t.timed && trapPending t then trapCur s cTIMING sylC 0
    else
      let s := s.modCth (fun t => { t with reports := t.reports ++ [.trap (code.setWidth 64)] })
      if t.timed then raiseFreeze s t.task.rid 1 else s))

/-- The results in flight that earlier bundles issued; those of the issuing bundle do not hold it (R258, R344). -/
def earlierFlights (s : State) (t : Thread) : List Flight := t.pipe.flights.filter (fun f => f.id < s.cur.first)

/-- ERET: the slot holds until no result of the handler's earlier bundles is in flight; the bundle issues, and once its own results have
landed too the thread returns. PRIV in user mode (R258, R343; log entry 9). -/
def execEret (g : Guard) (s : State) : Result :=
  .next (match s.cth with
    | none => s
    | some t =>
      let word : Word := BitVec.ofNat 64 ((encodeWord (.eret g)).getD 0)
      if t.mode = 0 then trapCur s cPRIV sylC word
      else guarded s g (fun t =>
        if !(earlierFlights s t).isEmpty then hold s
        else if t.pipe.flights.isEmpty then returnFromTrap s word
        else s.modCth (fun t => { t with pipe := { t.pipe with wait := .eret word } })))

/-- Has a thread arrived at the gang barrier, perhaps in a handler that a freeze brought (R63, R359)? -/
def atBarrier (t : Thread) : Bool := t.pipe.wait = .gbar || t.life.atBar

/-- The other members of a thread's gang (R40). -/
def gangMates (s : State) (n k : Nat) (t : Thread) : List Thread :=
  ((List.range t.task.size).filter (fun i => t.task.base + i ≠ n)).filterMap (fun i => s.thread (t.task.base + i) k)

/-- The SEQADD of a region's EXITC, resolved when it is performed (R43). -/
def exitAdd (s : State) (t : Thread) (id : Nat) : List QEntry :=
  match s.region t.task.rid with
  | some r =>
    if r.exitc = noCounter then []
    else [⟨id, 16, true, false, false, false, false, .seqadd none (counterAddr s t.task.rid (BitVec.ofNat 64 r.exitc)) 1⟩]
  | none => []

/-- Does a thread stand in a slot, in a dispatch unit or in an image? -/
def threadLives (s : State) (tid : Nat) : Bool :=
  s.cores.any (fun c => c.2.slots.toList.any (fun t => t.any (fun t => t.tid = tid))) ||
    s.dies.toList.any (fun d => d.disp.any (fun e => e.saved.any (fun t => t.tid = tid))) ||
    s.regions.any (fun r => r.evicted.any (fun e => e.2.slots.toList.any (fun t => t.any (fun t => t.tid = tid))))

/-- A debug stop ends with the task that it stops: DONE clears, and another stop may be requested (R322; log entry 38). -/
def endStop (s : State) : State :=
  match s.bar.dbgwho with
  | some i => if threadLives s i then s else { s with bar := { s.bar with dbgwho := none, dbgstat := s.bar.dbgstat &&& 0x10FFF } }
  | none => s

/-- The task in slot k of core n ends: TASKEXIT, the SEQADD of EXITC, and an empty slot; what the thread still has queued
stays among the core's ended threads (R43, R344). The later bank passes of an access in its last bundle are made now, and the place that
a push of that bundle reserved in a queue, whose result is discarded, is given back (DESIGN CHOICE, unsafe: the spec says neither when those
passes are made nor what becomes of the place; log entry 63). -/
def endTask (s : State) (n k : Nat) (t : Thread) : State :=
  let s := (t.pipe.passes.foldl (fun s l => doPass s n k l) s).modEng n (fun e => { e with
    qma := e.qma.filter (fun p => !(p.tid = t.tid && p.val.isNone)) })
  let s := recordThread s n k 0x02 (t.task.seq.toNat % 2 ^ 21) t t.ctl.pc
  let (id, s) := s.newId
  let t' := { t with
    orderQ := t.orderQ ++ exitAdd s t id, qno := [], qev := t.qev.filter (fun e => e.val.isSome)
    pipe := { t.pipe with flights := [], pend := [], passes := [], wait := .none }
    ctl := { t.ctl with ths := t.ctl.ths &&& ~~~(3 : Word) }
    life := { t.life with left := k, leftAt := s.sched.clock } }
  let s := (s.setThread n k none).modCore n (fun c => { c with ended := c.ended ++ [t'] })
  let s := s.modRegion t.task.rid (fun r => { r with detRun := r.detRun.filter (fun e => e.2 ≠ t.tid) })
  checkResume (endStop s) t.task.rid

/-- EXIT: it holds until pushes have landed and QNO has emptied; a member without a GBAR, or one that leaves another at a
GBAR, is fatal ENGINE; TIMING after a TRAP of the same domain time (R42, R63, R344, R345, R360). -/
def execExit (g : Guard) (s : State) : Result :=
  .next (guarded s g (fun t =>
    let n := s.cur.core
    let k := s.cur.slot
    let word := BitVec.ofNat 64 ((encodeWord (.exit g)).getD 0)
    let push := (earlierFlights s t).any (fun f => match f.dest with | .port _ => true | _ => false)
    if t.timed && trapPending t then trapCur s cTIMING sylC 0
    else if t.task.size > 1 && (!t.life.gbarDone || (gangMates s n k t).any atBarrier) then
      trapCur s cENGINE sylC word
    else if push || t.qno.any (fun e => e.id < s.cur.first) then hold s
    else endTask s n k t))

/-- MARK: a MARK record with the tag and x A (R365). -/
def execMark (a : Reg) (tag : BitVec 7) (g : Guard) (s : State) : Result :=
  .next (guarded s g (fun t =>
    recordCore s s.cur.core 0x14 s.cur.slot (s.tagOf t.task.rid)
      (BitVec.ofNat 82 (2 ^ 81 + tag.toNat * 2 ^ 74 + (t.regs.getX a).toNat)) none (some t.tid)))

/-- TIME: GTIME at the start of the turn (R404). -/
def execTime (d : Reg) (g : Guard) (s : State) : Result :=
  .next (intOp s (.x d) 1 g (fun _ => BitVec.ofNat 64 s.gtime))

/-- GBAR: an arrival at the gang's wired barrier, which the last arrival releases; complete at once for a gang of one;
fatal ENGINE in a handler (R166, R359, R360). -/
def execGbar (g : Guard) (s : State) : Result :=
  .next (guarded s g (fun t =>
    if t.mode ≠ 0 then trapCur s cENGINE sylC (BitVec.ofNat 64 ((encodeWord (.gbar g)).getD 0))
    else if t.task.size ≤ 1 then s.modCth (fun t => { t with life := { t.life with gbarDone := true } })
    else
      let n := s.cur.core
      let k := s.cur.slot
      let s := s.modCth (fun t => { t with pipe := { t.pipe with wait := .gbar } })
      let mates := gangMates s n k t
      if mates.length + 1 = t.task.size && mates.all atBarrier then
        s.schedule (s.sched.clock + 1) (.gbarRelease n k)
      else s))

end Sys2Proof.Machine
end

