-- ==== Sys2Proof/Machine/Waits.lean ====
section
/-! DEFINITION. Meanings of the waits, and the turn-by-turn evaluation of a wait that holds (R57, R58, R68, R253, R387,
R388, R435 to R441). -/

namespace Sys2Proof.Machine

/-- The issuing thread waits. -/
def startWait (s : State) (w : Wait) : State := s.modCth (fun t => { t with pipe := { t.pipe with wait := w, watch := none } })

/-- The wait of the thread in slot k of core n ends. -/
def endWait (s : State) (n k : Nat) : State :=
  s.modThread n k (fun t => { t with pipe := { t.pipe with wait := .none, watch := none } })

/-- A wait that is an acquire ends (R208). -/
def endAcquire (s : State) (n k : Nat) : State := acquireDone (endWait s n k) n

/-- A wait writes its predicate as it ends. -/
def putPred (s : State) (n k : Nat) (pd : BitVec 3) (v : Bool) : State :=
  s.modThread n k (fun t => { t with regs := t.regs.put (.p pd) (if v then 1 else 0) })

/-- The shape of a word that WAITA watches: class L or M (R437). -/
def watchShape : Shape := ⟨8, 8, true, .no, some .r, none⟩

/-- An access of a wait meets no translation: it is asked for, or faults (R192, R437). -/
def waitXlate (s : State) (n : Nat) (t : Thread) (va : Word) (sp : Spot) : State :=
  match sp with
  | .walk => askXlate s n (pasidOf s t.task.rid) va.toNat
  | .fault => pageFault s t sylC va false false
  | _ => s

/-- WAITT in a later turn: it ends in the first turn whose start is at or after the deadline (R68, R441). -/
def evalWaitt (s : State) (n k : Nat) (pd : BitVec 3) (x : Word) (past : Bool) : State :=
  if x.toNat ≤ s.gtime then putPred (endWait s n k) n k pd (past || x.toNat + 214 ≤ s.gtime) else s

/-- A home slice notifies a core that a wait is over: in some turn, and in the last one within `bound` clocks of the clock `since` of the
change at the latest (R32, R437; log entry 5). -/
def notified (s : State) (n since bound : Nat) : Bool × State :=
  (Config.happens s.sched.fresh || since + bound < s.coreClock n + 16, s.tickFresh)

/-- A wait is registered at the home slice of a key, which may have found it over already (R32, R387, R437). -/
def watchKey (s : State) (n k key : Nat) (past : Option Bool) : State :=
  s.modThread n k (fun t => { t with pipe := { t.pipe with watch := some (key, past.map (fun b => (s.coreClock n, b))) } })

/-- Does the home slice of a key lie on the die of a core (R189)? -/
def homeNear (n key : Nat) : Bool := homeSlice key / 8 = dieOf n

/-- The notice of a registered wait, within `near` clocks of the change from the own die and `far` from another (R32, R387, R437):
it ends with `f`. -/
def registered (s : State) (n k near far : Nat) (f : State → Bool → State) : State :=
  match (s.thread n k).bind (fun t => t.pipe.watch) with
  | some (key, some (since, bad)) =>
    let (now, s) := notified s n since (if homeNear n key then near else far)
    if now then f s bad else s
  | _ => s

/-- WAITA: the word differs from x B. Of class M its home slice sees every store after the first read, and a notice comes within 64
clocks from the own die, 128 from another (R437). -/
def evalWaita (s : State) (n k : Nat) (t : Thread) (a b : Word) : State :=
  let ended (s : State) : State := registered s n k 64 128 (fun s _ => endWait s n k)
  if t.pipe.watch.isSome then ended s
  else
    match spotOf s t n k watchShape a with
    | .loc off =>
      let (w, s) := readWord s n k t.tid (keyL n off) 8
      if w = b.toNat then s else endWait s n k
    | .gen key =>
      match poolError s n k key with
      | some s => s
      | none =>
        let (w, s) := readWord s n k t.tid key 8
        ended (watchKey s n k key (if w = b.toNat then none else some false))
    | sp => waitXlate s n t a sp

/-- WAITB: the object's PHASE differs from x B[31:0] (R438). -/
def evalWaitb (s : State) (n k : Nat) (t : Thread) (a b : Word) : State :=
  let (w, s) := readWord s n k t.tid (keyL n a.toNat + 8) 4
  if w ≠ b.toNat % 2 ^ 32 && releasesDone t then endAcquire s n k else s

/-- WAITMB: the mailbox holds the count, which is subtracted (R233, R440). -/
def evalWaitmb (s : State) (n k : Nat) (t : Thread) (mb : BitVec 6) (c : BitVec 32) : State :=
  if c ≤ ((s.core n).net.mbc[mb.toNat]?).getD 0 && releasesDone t then
    endAcquire (s.modNet n (fun e => { e with mbc := e.mbc.setIfInBounds mb.toNat ((e.mbc[mb.toNat]?).getD 0 - c) })) n k
  else s

/-- Is a token named by a WAITK mask, whose bit j - 1 names kj? -/
def tokenNamed (mask : BitVec 7) (j : Nat) : Bool := j ≠ 0 && mask.getLsbD (j - 1)

/-- WAITK: no named token is pending; the done ones become free (R82, R439). -/
def evalWaitk (s : State) (n k : Nat) (t : Thread) (mask : BitVec 7) : State :=
  let named := (List.range 8).filter (tokenNamed mask)
  if named.all (fun j => (t.tok[j]?).getD .free ≠ .pending) && releasesDone t then
    endAcquire (s.modThread n k (fun t => { t with
      tok := named.foldl (fun v j => v.setIfInBounds j .free) t.tok })) n k
  else s

/-- What a SEQWAIT finds in a counter: poison (true), its threshold (false), or neither (R387). -/
def counterOver (c : Nat) (th : Word) : Option Bool :=
  if 2 ^ 63 ≤ c then some true else if th.toNat ≤ c then some false else none

/-- The watchers evaluate the SEQWAITs that name the counter at a key, after a SEQADD to it and at poison (R32, R265, R387). -/
def notifyCounter (s : State) (key : Nat) : State :=
  notifyWaits s (fun k w =>
    match w with
    | .seqwait _ _ th => if k = key then counterOver (Memory.readLE s.mem key 8) th else none
    | _ => none)

/-- SEQWAIT: the counter is read once and then registered with the watchers, which see SEQADDs and poison only; their notice comes
within 24 clocks from the own die, 64 from another (R32, R387). -/
def evalSeqwait (s : State) (n k : Nat) (t : Thread) (pd : BitVec 3) (i th : Word) : State :=
  let ended (s : State) : State := registered s n k 24 64 (fun s bad =>
    if !releasesDone t then s
    else if bad then putPred (endWait s n k) n k pd true
    else putPred (endAcquire s n k) n k pd false)
  if t.pipe.watch.isSome then ended s
  else
    let va := counterAddr s t.task.rid i
    match spotM s n (pasidOf s t.task.rid) .r none va with
    | .gen key =>
      match poolError s n k key with
      | some s => s
      | none =>
        let (c, s) := readWord s n k t.tid key 8
        ended (watchKey s n k key (counterOver c th))
    | sp => waitXlate s n t va sp

/-- One evaluation of the wait of slot k of core n in its turn (R435). A GBAR ends only by its release, and a WAITMB is evaluated
once the landings of its clock are made (R233). -/
def evalWait (s : State) (n k : Nat) : State :=
  match s.thread n k with
  | none => s
  | some t =>
    match t.pipe.wait with
    | .none => s
    | .waitt pd x past => evalWaitt s n k pd x past
    | .waita a b => evalWaita s n k t a b
    | .waitb a b => evalWaitb s n k t a b
    | .waitmb _ _ => s
    | .waitk m => evalWaitk s n k t m
    | .seqwait pd i th => evalSeqwait s n k t pd i th
    | .gbar => s
    | .eret _ => s

/-- The WAITMB of slot k of core n, evaluated at the end of a clock whose turn is the slot's (R233). -/
def evalMailbox (s : State) (n k : Nat) : State :=
  match s.thread n k with
  | none => s
  | some t => match t.pipe.wait with | .waitmb mb c => evalWaitmb s n k t mb c | _ => s

/-- Start a wait of the issuing thread and evaluate it in its issue turn (R435). -/
def waitNow (s : State) (w : Wait) : State := evalWait (startWait s w) s.cur.core s.cur.slot

/-- WAIT: IMM17 more turns before the next bundle, beside the header's (R57, R58). -/
def execWait (imm : BitVec 17) (g : Guard) (s : State) : Result :=
  .next (guarded s g (fun _ =>
    s.modCth (fun t => { t with pipe := { t.pipe with waitLeft := t.pipe.waitLeft + imm.toNat } })))

/-- WAITT: a wait for a wall time (R68, R441). -/
def execWaitt (pd : BitVec 3) (a : Reg) (g : Guard) (s : State) : Result :=
  .next (guarded s g (fun t => startWait s (.waitt pd (t.regs.getX a) ((t.regs.getX a).toNat < s.gtime))))

/-- A wait's first access meets no translation: the bundle holds, but a member of a timed domain waits in its wait (R70,
R437). -/
def waitOrHold (s : State) (t : Thread) (va : Word) (w : Wait) : State :=
  let s := askXlate s s.cur.core (pasidOf s t.task.rid) va.toNat
  if t.inDomain then startWait s w else hold s

/-- WAITA: a wait for a word to differ (R437). -/
def execWaita (a b : Reg) (g : Guard) (s : State) : Result :=
  .next (guarded s g (fun t =>
    let ea := t.regs.getX a
    match spotOf s t s.cur.core s.cur.slot watchShape ea with
    | .trap c v => trapCur s c sylC v
    | .walk => waitOrHold s t ea (.waita ea (t.regs.getX b))
    | .fault => pageFault s t sylC ea false false
    | _ => waitNow s (.waita ea (t.regs.getX b))))

/-- WAITB: a wait for a barrier phase (R438). -/
def execWaitb (a b : Reg) (g : Guard) (s : State) : Result :=
  .next (guarded s g (fun t =>
    let ea := t.regs.getX a
    match spotOf s t s.cur.core s.cur.slot ⟨16, 16, true, .no, none, none⟩ ea with
    | .loc _ => waitNow s (.waitb ea (t.regs.getX b))
    | .trap c v => trapCur s c sylC v
    | _ => s))

/-- WAITMB: a wait for a mailbox count, tested once the landings of the clock are made (R233, R440). -/
def execWaitmb (mb : BitVec 6) (a : Reg) (g : Guard) (s : State) : Result :=
  .next (guarded s g (fun t => waitNow s (.waitmb mb ((t.regs.getX a).setWidth 32))))

/-- WAITK: a wait for tokens (R439). -/
def execWaitk (mask : BitVec 7) (g : Guard) (s : State) : Result :=
  .next (guarded s g (fun _ => waitNow s (.waitk mask)))

/-- SEQWAIT: a wait for a sequence counter, never over in its issue turn; an index outside the pool traps PRIV
(R387, R388). -/
def execSeqwait (pd : BitVec 3) (a b : Reg) (g : Guard) (s : State) : Result :=
  .next (guarded s g (fun t =>
    let idx := t.regs.getX a
    if idx.toNat / 2 ^ 20 ≠ 0 || (poolOf s t.task.rid).2 ≤ idx.toNat then trapCur s cPRIV sylC idx
    else
      let va := counterAddr s t.task.rid idx
      match spotM s s.cur.core (pasidOf s t.task.rid) .r none va with
      | .walk => waitOrHold s t va (.seqwait pd idx (t.regs.getX b))
      | .fault => pageFault s t sylC va false false
      | .trap c v => trapCur s c sylC v
      | _ => startWait s (.seqwait pd idx (t.regs.getX b))))

end Sys2Proof.Machine
end

