-- ==== Sys2Proof/Machine/Registers.lean ====
section
/-! DEFINITION. Meanings of RDC and WRC over the control registers (R74, R86 to R92, R275, R277, R381, R382, R443, R444). -/

namespace Sys2Proof.Machine

/-- May a mode read a register (R86)? -/
def ctlReadable (mode num : Nat) : Bool := controlListed num && (mode ≠ 0 || !(1 ≤ num && num ≤ 4))

/-- May a mode write a register (R86, R444)? -/
def ctlWritable (mode num : Nat) : Bool :=
  num = 0 || num = 0x10 || num = 0x20 || num = 0x22 || (0x30 ≤ num && num ≤ 0x6F) || (0x100 ≤ num && num ≤ 0x13F) ||
    (mode ≠ 0 && (num = 2 || (0x80 ≤ num && num ≤ 0x87)))

/-- GPART of a core: that of the live region that holds its row as a gang row, one that is switched out apart (R22, R89,
R262). -/
def gpartOf (s : State) (n : Nat) : Nat :=
  match s.regions.find? (fun r => r.rows.contains (n / 32) && r.phase ≠ .parked && r.phase ≠ .evicted) with | some r => r.gpart.toNat | none => 0

/-- MXCFG as read (R89). -/
def mxcfgWord (s : State) (n : Nat) : Word := (s.core n).eng.mxcfg ||| BitVec.ofNat 64 (gpartOf s n * 2 ^ 15)

/-- MXSTAT (R89). -/
def mxstatWord (e : Engine) : Word :=
  let ldb : Bool := match e.queue with | q :: _ => q.left.isSome && (match q.kind with | .mxldb _ _ => true | _ => false) | [] => false
  let (held, set) := match e.run with | some r => (r.held, r.set) | none => (false, false)
  BitVec.ofNat 64 (e.mxdone.toNat * 2 ^ 32 + e.mxremn.toNat * 2 ^ 16 + (if held then 8 else 0) + (if set then 4 else 0) +
    (if ldb then 2 else 0) + (if e.run.isSome then 1 else 0))

/-- Does an MXRUN of a core still have steps to complete (R89)? -/
def stepsRunning (e : Engine) : Bool := match e.run with | some r => r.tail.isNone | none => false

/-- LINKLAT of a link; links 12 to 15 read VALID = 0 and LAT = 0 (R74, R317). -/
def linklatWord (s : State) (lsel : BitVec 4) : Word :=
  match s.links[lsel.toNat]? with
  | none => lsel.setWidth 64
  | some l =>
    BitVec.ofNat 64 ((l.stat.extractLsb' 12 20).toNat * 2 ^ 32 +
      (if l.stat.getLsbD 1 && l.stat.getLsbD 2 then 2 ^ 15 else 0) + lsel.toNat)

/-- CELLCTL of a core (R275). -/
def cellctlWord (s : State) (c : Core) : Word :=
  (c.rcd.ctl &&& 0x000007FFFF000000) |||
    BitVec.ofNat 64 ((if c.cellar.hlost then 2 ^ 63 else 0) + c.cellar.lost.toNat * 2 ^ 48 +
      (if c.cellar.frozen then 2 ^ 16 else 0) + (if c.rcd.run s.sched.clock then 2 ^ 15 else 0) + c.cellar.wptr % 1024)

/-- A watermark channel (R92). -/
def wmkWord (w : Wmk) : Word :=
  BitVec.ofNat 64 ((if w.armed then 2 ^ 63 else 0) + w.base * 2 ^ 40 + w.limit * 2 ^ 20 + w.mark)

/-- A control register as it stands now. -/
def ctlNow (s : State) (n : Nat) (t : Thread) (num : Nat) : Word :=
  let c := s.core n
  if num = 0 then t.ctl.ths
  else if num = 1 then t.ctl.trapc
  else if num = 2 then t.ctl.trappc
  else if num = 3 then t.ctl.trapv
  else if num = 4 then t.ctl.trapif
  else if num = 0x10 then mxcfgWord s n
  else if num = 0x11 then mxstatWord c.eng
  else if num = 0x20 then t.ctl.stallc
  else if num = 0x21 then BitVec.ofNat 64 (s.domtick t)
  else if num = 0x22 then linklatWord s t.ctl.lsel
  else if num < 0x70 then (c.net.latacc[num - 0x30]?).getD 0
  else if num = 0x80 then cellctlWord s c
  else if num < 0x85 then (c.rcd.tmatch[num - 0x81]?).getD 0
  else if num = 0x85 then c.rcd.tsel
  else if num = 0x86 then c.rcd.tcnt
  else if num = 0x87 then c.rcd.fired.setWidth 64
  else if num < 0x140 then ((c.net.mbc[num - 0x100]?).getD 0).setWidth 64
  else match c.net.wmk[num - 0x140]? with | some w => wmkWord w | none => 0

/-- The registers of a core that its gang engine and its recorder change, as they stand. -/
def clockworkWords (s : State) (n : Nat) : List (Nat × Word) :=
  let c := s.core n
  [(0x11, mxstatWord c.eng), (0x80, cellctlWord s c), (0x86, c.rcd.tcnt), (0x87, c.rcd.fired.setWidth 64)]

/-- What the clock that begins has changed of them is noted, so that RDC does not see it before the next clock (R382). -/
def noteClockwork (before s : State) (n : Nat) : State :=
  let changed := (clockworkWords before n).filter (fun w => !(clockworkWords s n).contains w)
  if changed.isEmpty then s
  else s.modNet n (fun e =>
    { e with landed := changed.map (fun w => (s.sched.clock, w.1, 0, w.2)) ++ e.landed.filter (fun u => u.1 = s.sched.clock) })

/-- RDC reads a register as the clocks before left it: an engine update of this clock is not seen (R382). -/
def readCtl (s : State) (n : Nat) (t : Thread) (num : Nat) : Word :=
  match (s.core n).net.landed.find? (fun u => u.1 = s.sched.clock && u.2.1 = num) with
  | some u => u.2.2.2
  | none => ctlNow s n t num

/-- RDC (R381, R382). -/
def execRdc (d : Reg) (creg : BitVec 12) (g : Guard) (s : State) : Result :=
  .next (match s.cth with
    | none => s
    | some t =>
      if ctlReadable t.mode creg.toNat then intOp s (.x d) 1 g (fun t => readCtl s s.cur.core t creg.toNat)
      else trapCur s cPRIV sylC (BitVec.ofNat 64 ((encodeWord (.rdc d creg g)).getD 0)))

/-- The engine updates of a register in this clock, applied again to a written value (R86). -/
def reapply (s : State) (e : CoreNet) (num : Nat) (v : Word) : Word :=
  (e.landed.filter (fun u => u.1 = s.sched.clock && u.2.1 = num)).foldl (fun v u =>
    if num < 0x70 then sampleLatency v u.2.2.1 else BitVec.ofNat 64 (min 0xFFFFFFFF (v.toNat + u.2.2.1))) v

/-- The gang size's logarithm of a partition code (R89, R146). -/
def log2Gang (gpart : Nat) : Nat := if gpart = 0 then 0 else gpart + 1

/-- Is a value legal for MXCFG on a core (R89)? -/
def mxcfgOk (s : State) (n : Nat) (v : Word) : Bool :=
  4 ≤ (v.extractLsb' 6 5).toNat && (v.extractLsb' 6 5).toNat ≤ 16 && (v.extractLsb' 11 4).toNat ≤ 5 &&
    (v.extractLsb' 18 4).toNat ≤ log2Gang (gpartOf s n)

/-- A write to CELLCTL; a firing of the same clock that acts on RUN is applied after it (R275, R278, R279). -/
def writeCellctl (s : State) (r : Recorder) (v : Word) : Recorder :=
  let r := { r with ctl := (v &&& 0x000007FFFF008000) ||| 0x0000040A00000000, owed := none }
  if r.lastFire.1 = s.sched.clock then applyFiring r s.sched.clock r.acted else r

/-- A write to a recorder register of a core (R275, R277). -/
def writeRecorder (s : State) (t : Thread) (r : Recorder) (num : Nat) (v : Word) : Recorder :=
  let fired : BitVec 4 := if r.lastFire.1 = s.sched.clock then r.lastFire.2 else 0
  if num = 0x80 then writeCellctl s r v
  else if num < 0x85 then
    let own : Word := if t.mode = 2 then 0 else (s.tagOf t.task.rid).setWidth 64 <<< 6
    { r with tmatch := r.tmatch.setIfInBounds (num - 0x81) ((v &&& 0xFFF0FFFFFFF80000) ||| own) }
  else if num = 0x85 then { r with tsel := v &&& 0x000000000FFFFFFF }
  else if num = 0x86 then { r with tcnt := countFirings v fired }
  else { r with fired := (r.fired &&& ~~~(v.setWidth 4)) ||| fired }

/-- The effect of a WRC that its checks let through (R444). -/
def writeCtl (s : State) (t : Thread) (num : Nat) (v : Word) : State :=
  let n := s.cur.core
  let ctl (f : Ctl → Ctl) : State := s.modCth (fun t => { t with ctl := f t.ctl })
  if num = 0 then ctl (fun c => { c with ths := (c.ths &&& ~~~0xF1F70) ||| (v &&& 0xF1F70) })
  else if num = 2 then ctl (fun c => { c with trappc := pcField v })
  else if num = 0x10 then s.modEng n (fun e => { e with mxcfg := v &&& 0x3C7FFF })
  else if num = 0x20 then ctl (fun c => { c with stallc := v &&& 0xFFFFFFFF })
  else if num = 0x22 then ctl (fun c => { c with lsel := v.setWidth 4 })
  else if num < 0x70 then
    s.modNet n (fun e => { e with latacc := e.latacc.setIfInBounds (num - 0x30) (reapply s e num v) })
  else if num < 0x88 then s.modCore n (fun c => { c with rcd := writeRecorder s t c.rcd num v })
  else s.modNet n (fun e =>
    let w : BitVec 32 := (reapply s e num (v &&& 0xFFFFFFFF)).setWidth 32
    { e with mbc := e.mbc.setIfInBounds (num - 0x100) w })

/-- WRC: PRIV by R86; MXCFG checks its value, and holds while an MXRUN runs (R89, R443, R444). -/
def execWrc (creg : BitVec 12) (a : Reg) (g : Guard) (s : State) : Result :=
  .next (match s.cth with
    | none => s
    | some t =>
      if !ctlWritable t.mode creg.toNat then
        trapCur s cPRIV sylC (BitVec.ofNat 64 ((encodeWord (.wrc creg a g)).getD 0))
      else guarded s g (fun t =>
        let v := t.regs.getX a
        if creg = 0x10 && !mxcfgOk s s.cur.core v then trapCur s cILLEGAL sylC v
        else if creg = 0x10 && stepsRunning s.ccore.eng then holdOrTiming s sylC
        else writeCtl s t creg.toNat v))

end Sys2Proof.Machine
end

