-- ==== Sys2Proof/Machine/Engine.lean ====
section
/-! DEFINITION. Tokens and engine reports, the gang engine, and the meanings of MXLDB, MXRUN, MXRD, MXFLG and MXCLR with
the device steps of a gang operation (R82, R145 to R168, R218, R229, R358, R371 to R376). -/

namespace Sys2Proof.Machine

/-! ### Tokens (R82, R218, R229) -/

/-- The state of a token field; 0 names none. -/
def tokOf (t : Thread) (k : Nat) : Tok := if k = 0 then .free else (t.tok[k]?).getD .free

/-- The tokens that an E syllable consumes. -/
def consumedToks (k : Toks) : List Nat := ([k.kc0, k.kc1, k.kc2].map (fun x => x.toNat)).filter (fun x => x ≠ 0)

/-- The header of an E instruction of the issuing thread, with its syllable. -/
def mkHead (s : State) (t : Thread) (k : Toks) (w : Word) : EHead :=
  { id := s.sched.nextId, tid := t.tid, rid := t.task.rid, slot := s.cur.slot, pc := t.ctl.pc, kp := k.kp
    waits := ((consumedToks k).filter (fun x => tokOf t x = .pending)).eraseDups
    bad := (consumedToks k).any (fun x => tokOf t x = .dropped)
    dstr := (Thread.dstr t).toNat, before := s.sched.nextId, timed := t.timed, user := t.mode = 0, asked := none, word := w }

/-- A token that a header waits for is done, or was dropped. -/
def EHead.clear (tid k : Nat) (dropped : Bool) (h : EHead) : EHead :=
  if h.tid = tid && h.waits.contains k then { h with waits := h.waits.erase k, bad := h.bad || dropped } else h

/-- Change every E header of a core. -/
def mapHeads (f : EHead → EHead) (c : Core) : Core :=
  { c with
    eng := { c.eng with
      queue := c.eng.queue.map (fun q => { q with head := f q.head })
      run := c.eng.run.map (fun r => { r with head := f r.head })
      rds := c.eng.rds.map (fun r => { r with head := f r.head }) }
    net := { c.net with jobs := c.net.jobs.map (fun j => { j with head := f j.head }) } }

/-- Change the E header with an identity on a core. -/
def modHead (s : State) (n id : Nat) (f : EHead → EHead) : State :=
  s.modCore n (mapHeads (fun h => if h.id = id then f h else h))

/-- Change every thread of a core. -/
def mapThreads (f : Thread → Thread) (c : Core) : Core :=
  { c with slots := c.slots.map (fun t => t.map f), ended := c.ended.map f }

/-- Change the thread with an identity wherever it stands: on a core, saved in a dispatch unit or in an evicted image
(R192, R263). -/
def mapTid (s : State) (tid : Nat) (f : Thread → Thread) : State :=
  let g (t : Thread) : Thread := if t.tid = tid then f t else t
  { s with
    cores := s.cores.map (fun c => (c.1, mapThreads g c.2))
    dies := s.dies.map (fun d => { d with disp := d.disp.map (fun e => { e with saved := e.saved.map g }) })
    regions := s.regions.map (fun r => { r with evicted := r.evicted.map (fun c => (c.1, mapThreads g c.2)) }) }

/-- Change every E header of the package. -/
def mapAllHeads (s : State) (f : EHead → EHead) : State :=
  { s with
    cores := s.cores.map (fun c => (c.1, mapHeads f c.2))
    regions := s.regions.map (fun r => { r with evicted := r.evicted.map (fun c => (c.1, mapHeads f c.2)) }) }

/-- A production of token k of a thread is done, or was dropped with its instruction (R82, R229). -/
def tokenDone (s : State) (tid k : Nat) (dropped : Bool) : State :=
  if k = 0 then s
  else
    mapAllHeads (mapTid s tid (fun t => { t with tok := t.tok.setIfInBounds k (if dropped then .dropped else .done) }))
      (EHead.clear tid k dropped)

/-- May an E instruction begin its memory effects (R218)? -/
def headReady (s : State) (n : Nat) (h : EHead) : Bool :=
  h.waits.isEmpty && h.asked.isNone &&
    (match s.ownerThread n h.tid with | some t => streamDone t h.dstr h.before | none => true)

/-- The thread of a header, in a slot or saved; a thread that has ended is not found (R229). -/
def liveThread (s : State) (tid : Nat) : Option Thread :=
  let on (c : Core) : List Thread := c.slots.toList.filterMap (fun t => t)
  let all := (s.cores.map (fun c => on c.2)).flatten ++
    (s.dies.toList.map (fun d => d.disp.filterMap (fun e => e.saved))).flatten ++
    (s.regions.map (fun r => (r.evicted.map (fun c => on c.2)).flatten)).flatten
  all.find? (fun t => t.tid = tid)

/-- TK of a record about a thread. -/
def headTick (s : State) (h : EHead) : Nat := match liveThread s h.tid with | some t => s.domtick t | none => 0

/-- A record of form C about an E instruction (R274). -/
def recordHead (s : State) (n : Nat) (h : EHead) (ty x : Nat) : State :=
  recordCore s n ty h.slot (s.tagOf h.rid) (cForm x h.pc (headTick s h)) (some (h.pc.extractLsb' 5 29)) (some h.tid)

/-- Has the fault domain of an E instruction begun to end? -/
def headEnding (s : State) (h : EHead) : Bool := match s.region h.rid with | some r => r.phase = .ending | none => true

/-- The region-fatal trap of an E instruction; TRAPV of ENGINE is its syllable (R250). -/
def engineTrap (s : State) (n : Nat) (h : EHead) (cause : BitVec 16) (v : Word) : State :=
  fatalFor s n h.slot h.rid cause sylE h.pc (headTick s h) (if cause = cENGINE then h.word else v)

/-- A region-fatal fault of an E instruction, unless its fault domain already ends (R250, R265). -/
def engineFatal (s : State) (n : Nat) (h : EHead) (cause : BitVec 16) (v : Word) : State :=
  if headEnding s h then s else engineTrap s n h cause v

/-- A region-fatal fault in each of some E instructions at once: every one whose fault domain had not begun to end traps
(R151 to R153, R250). -/
def engineFatals (s : State) (l : List (Nat × EHead)) (cause : BitVec 16) (v : Word) : State :=
  (l.filter (fun e => !headEnding s e.2)).foldl (fun s e => engineTrap s e.1 e.2 cause v) s

/-- TRAPV of an engine report (R229). -/
def reportValue (v : Word) : Word := v ||| ((1 : Word) <<< 62)

/-- An E instruction's failure reaches its thread: a report, or region-fatal when timed or ended (R229). -/
def engineReport (s : State) (n : Nat) (h : EHead) (cause : BitVec 16) (v : Word) : State :=
  if h.timed then engineFatal s n h cause (reportValue v)
  else
    match liveThread s h.tid with
    | some _ => mapTid s h.tid (fun t => { t with reports := t.reports ++ [.engine cause (reportValue v)] })
    | none => engineFatal s n h cENGINE 0

/-! ### Issue of an E syllable (R358) -/

/-- An E syllable enters: its implicit release, its produced token, and its own effect (R82, R209, R358). -/
def startE (s : State) (t : Thread) (k : Toks) (w : Word) (f : EHead → State → State) : State :=
  let h := mkHead s t k w
  let s := pushQ s h.dstr true false false (fun _ => .erelease)
  f h (s.modCth (fun t => if k.kp = 0 then t else { t with tok := t.tok.setIfInBounds k.kp.toNat .pending }))

/-- An E syllable of the issuing thread: ILLEGAL from its operands, TIMING where a resource or a pending KP token would
hold it in domain time, its other traps, its holds, its effect (R251, R358). -/
def eSyllable (s : State) (t : Thread) (k : Toks) (w : Word) (ill : Option (BitVec 16 × Word)) (busy : Bool)
    (bad : Option (BitVec 16 × Word)) (f : EHead → State → State) : State :=
  let b := busy || tokOf t k.kp.toNat = .pending
  match ill with
  | some (c, v) => trapCur s c sylE v
  | none =>
    if b && t.inDomain then trapCur s cTIMING sylE 0
    else
      match bad with
      | some (c, v) => trapCur s c sylE v
      | none => if b then hold s else startE s t k w f

/-- The word of an instruction, as TRAPV names it (R250). -/
def wordOf (i : Instr) : Word := BitVec.ofNat 64 ((encodeWord i).getD 0)

/-- Is the queue of a core's gang engine full? The operation that runs stands at its head (R154). -/
def engineFull (e : Engine) : Bool := e.queue.length + (if e.run.isSome then 1 else 0) ≥ Config.engineQueue

/-- An operation of the gang engine queue; ENGINE in handler mode (R154, R166). -/
def engineOp (s : State) (i : Instr) (k : Toks) (ill : Thread → Option (BitVec 16 × Word)) (late : Thread → Bool)
    (kind : Thread → EngKind) : State :=
  match s.cth with
  | none => s
  | some t =>
    let ill := match ill t with | some e => some e | none => if t.mode ≠ 0 then some (cENGINE, wordOf i) else none
    if ill.isNone && late t && t.inDomain then trapCur s cTIMING sylE 0
    else
      eSyllable s t k (wordOf i) ill (engineFull s.ccore.eng) none (fun h s =>
        s.modEng s.cur.core (fun e => { e with queue := e.queue ++ [⟨h, none, kind t⟩] }))

/-- MXLDB (R373). -/
def execMxldb (mask : BitVec 4) (a : Reg) (k : Toks) (s : State) : Result :=
  .next (engineOp s (.mxldb mask a k) k (fun _ => none) (fun _ => false) (fun t => .mxldb mask (t.regs.getX a)))

/-- The configuration address of an MXRUN: B4 = 0 selects the default (R151). -/
def confAddr (t : Thread) (b : BitVec 4) : Option Word := if b = 0 then none else some (t.regs.getX (b.setWidth 5))

/-- Does an MXRUN's configuration ask for emission (R151)? -/
def confOut (m : List Host.Cell) (n : Nat) (cfg : Option Word) : Bool :=
  match cfg with
  | none => false
  | some a => a.toNat % 32 = 0 && a.toNat + 32 ≤ 0x78000 && (Memory.read m (keyL n a.toNat)).getLsbD 1

/-- MXRUN (R375, R376). -/
def execMxrun (set : Bool) (a : Reg) (b : BitVec 4) (k : Toks) (s : State) : Result :=
  .next (engineOp s (.mxrun set a b k) k
    (fun t =>
      let n := t.regs.getX a
      if n = 0 || 65535 < n.toNat then some (cILLEGAL, n) else none)
    (fun t => !s.ccore.eng.emit.isEmpty && confOut (soundMem s) s.cur.core (confAddr t b))
    (fun t => .mxrun set (t.regs.getX a).toNat (confAddr t b)))

/-- MXCLR (R371). -/
def execMxclr (set : Bool) (k : Toks) (s : State) : Result :=
  .next (engineOp s (.mxclr set k) k (fun _ => none) (fun _ => false) (fun _ => .mxclr set))

/-- A snapshot read: a selector with a non-zero zero field traps ILLEGAL; it ends within 4 turns of its issue
(R161, R372). -/
def snapshotOp (s : State) (i : Instr) (flags : Bool) (d a : Reg) (b : BitVec 4) (k : Toks) : State :=
  match s.cth with
  | none => s
  | some t =>
    let sel := t.regs.getX a
    let ill := if sel.toNat / 2 ^ (if flags then 6 else 9) ≠ 0 then some (cILLEGAL, sel) else none
    eSyllable s t k (wordOf i) ill false none (fun h s =>
      s.modEng s.cur.core (fun e => { e with rds := e.rds ++ [⟨h, flags, d, b, sel, s.sched.clock + 32, none⟩] }))

/-- MXRD (R374). -/
def execMxrd (d a : Reg) (b : BitVec 4) (k : Toks) (s : State) : Result := .next (snapshotOp s (.mxrd d a b k) false d a b k)

/-- MXFLG (R372). -/
def execMxflg (d a : Reg) (k : Toks) (s : State) : Result := .next (snapshotOp s (.mxflg d a k) true d a 0 k)

/-! ### The gang (R145, R146) -/

/-- The size of the gang that a core belongs to. -/
def gangSize (s : State) (n : Nat) : Nat := 2 ^ log2Gang (gpartOf s n)

/-- The first core of the gang. -/
def gangBase (s : State) (n : Nat) : Nat := n / gangSize s n * gangSize s n

/-- The cores from a base. -/
def gangCores (base size : Nat) : List Nat := (List.range size).map (fun i => base + i)

/-- Is the domain of a timed E instruction frozen (R164)? -/
def headFrozen (s : State) (h : EHead) : Bool :=
  h.timed && (match s.domain h.rid with | some d => d.frozen | none => false)

/-- An E instruction ends: its token is done, or dropped (R82, R229). -/
def finishE (s : State) (h : EHead) (dropped : Bool) : State := tokenDone s h.tid h.kp.toNat dropped

/-- Remove the head of a core's engine queue. -/
def popEngine (s : State) (n : Nat) : State := s.modEng n (fun e => { e with queue := e.queue.drop 1 })

/-- Does a translation send an address into the area reserved for the device (R311)? -/
def reservedAt (s : State) (n : Nat) (pasid : BitVec 20) (va : Nat) : Bool :=
  match lookupXlate s n pasid va with | some e => reservedKey (xlateKey e.t va) | none => false

/-- The task of an E instruction, as R193 counts its faults. -/
def headTask (s : State) (n : Nat) (h : EHead) : Option (BitVec 16 × Word) :=
  ((liveThread s h.tid).or (s.ownerThread n h.tid)).bind (fun t => faultTask t.task)

/-- A page request of an engine, or a walk, for an address that it cannot translate; one in the area reserved for the device is a
request that fails at once (R187, R194, R274, R311). -/
def engineAsk (s : State) (n : Nat) (h : EHead) (va : Word) (fault write : Bool) : State :=
  let pasid := pasidOf s h.rid
  let d := BitVec.ofNat 2 (dieOf n)
  if !fault then askXlate s n pasid va.toNat
  else
    let s := recordCore s n 0x11 h.slot (s.tagOf h.rid) (faultForm va false write (headTick s h)) none (some h.tid)
    let gone := reservedAt s n pasid va.toNat
    let (id, s) :=
      if gone then
        let (id, s) := s.newId
        (id, (s.modDie d (fun e => { e with reqs := e.reqs ++ [⟨id, pasid, va.toNat / 4096 * 4096, none, true⟩] })).schedule
          s.sched.clock (.pageResponse d id false))
      else askPage (dropXlate s pasid va.toNat) d pasid va.toNat (headTask s n h)
    modHead s n h.id (fun h => { h with asked := some id })

/-! ### The start of an MXRUN (R151, R152) -/

/-- A step configuration; none breaks R151. -/
def parseConf (m : List Host.Cell) (n : Nat) (cfg : Option Word) : Option MxConf :=
  match cfg with
  | none => some ⟨false, false, 4, 0, 0, 0, 0, 0⟩
  | some a =>
    let at' (i w : Nat) : Nat := Memory.readLE m (keyL n (a.toNat + i)) w
    let asrc := at' 0 1 % 2 = 1
    let osh := signedLane 8 (at' 2 1)
    if a.toNat % 32 ≠ 0 || a.toNat + 32 > 0x78000 then none
    else if at' 0 1 ≥ 4 || at' 1 1 ≥ 8 || at' 1 1 = 2 || osh < -64 || osh > 63 || at' 3 1 ≠ 0 || at' 4 2 ≥ 4096 ||
        (!asrc && at' 4 2 ≠ 0) || at' 12 20 ≠ 0 then none
    else some ⟨asrc, at' 0 1 / 2 = 1, at' 1 1, osh, at' 4 2, at' 6 2, at' 8 2, at' 10 2⟩

/-- The entry of a tensor as found by an access on a core (R198, R202). -/
def entryVec (s : State) (n : Nat) (rid : BitVec 16) (tid : Nat) : Vec :=
  match (s.core n).cache.held.find? (fun h => h.tid = tid && h.rid = rid) with
  | some h => h.entry
  | none =>
    match ttbaseOf s (BitVec.ofNat 2 (dieOf n)) with
    | some base => BitVec.ofNat 512 (Memory.readLE (soundMem s) (keyStack (base + 64 * tid)) 64)
    | none => 0

/-- The tile coordinates that the steps of an MXRUN read along one coordinate, of those inside the dimension. -/
def coordTiles (l : List Nat) (dim ext : Nat) : List Nat :=
  ((l.filter (fun x => x < dim)).map (fun x => x / 2 ^ ext)).eraseDups

/-- The tensor rows that n steps read (R151). -/
def stepRows (c : MxConf) (n : Nat) : List Nat :=
  ((List.range n).map (fun j => (List.range 16).map (fun i => (c.row0 + c.rstep * j + i) % 65536))).flatten

/-- The tensor columns that a member reads (R151). -/
def stepCols (c : MxConf) (kp : Nat) : List Nat := (List.range 512).map (fun k => (c.k0 + 512 * kp + k) % 65536)

/-- What the checks of a tensor A find: a bad configuration, a missing or failed translation, or the tiles' offsets. -/
inductive TensorA
  | bad
  | ask (va : Word) (fault : Bool)
  | ok (entry : Vec) (tiles : List (Nat × Nat))
  deriving DecidableEq, Repr

/-- Resolve tiles to local offsets; every one must lie in the member's own scratchpad, of which the context tail and a class-G address of
the own core are taken to be no part (R151; DESIGN CHOICE, unsafe: R151 says only 'in the member's own scratchpad'; log entry 64). -/
def resolveTiles (s : State) (n : Nat) (rid : BitVec 16) (tid : Nat) (e : Tensor) (held : Option (List Word))
    (l : List (Nat × Nat)) (acc : List (Nat × Nat)) (v : Vec) : TensorA :=
  match l with
  | [] => .ok v acc
  | (t0, t1) :: r =>
    match findTile s n rid tid e held [t0, t1, 0, 0] with
    | .trap _ _ => .bad
    | .walk va => .ask va false
    | .fault va => .ask va true
    | .outside => resolveTiles s n rid tid e held r acc v
    | .at' a tn =>
      if a.toNat + e.tile ≤ 0x78000 then resolveTiles s n rid tid e held r (assocSet acc tn a.toNat) v else .bad

/-- The tiles of A that a member's steps read (R151). -/
def tilesA (e : Tensor) (c : MxConf) (kp steps : Nat) : List (Nat × Nat) :=
  let rows := coordTiles (stepRows c steps) (e.dims.getD 0 0) (e.ext.getD 0 0)
  let cols := coordTiles (stepCols c kp) (e.dims.getD 1 0) (e.ext.getD 1 0)
  (rows.map (fun t0 => cols.map (fun t1 => (t0, t1)))).flatten

/-- The tensor A of a member's steps (R151). -/
def resolveA (s : State) (n : Nat) (rid : BitVec 16) (c : MxConf) (kp steps : Nat) : TensorA :=
  if !c.asrc then .ok 0 []
  else
    match findEntry s n rid c.tid with
    | none => .bad
    | some (e, held) =>
      if e.fmt ≠ c.afmt then .bad
      else match tableAsk s n rid e held with
      | some va => .ask va false
      | none => resolveTiles s n rid c.tid e held (tilesA e c kp steps) [] (entryVec s n rid c.tid)

/-- The MXRUN at the head of a core's queue, with its set, steps and configuration address. -/
def headRun (s : State) (n : Nat) : Option (EHead × Bool × Nat × Option Word) :=
  match (s.core n).eng.queue, (s.core n).eng.run with
  | q :: _, none => match q.kind with | .mxrun set m cfg => some (q.head, set, m, cfg) | _ => none
  | _, _ => none

/-- Has a core arrived at the wired barrier: an MXRUN at its queue's head may begin, and one that emits finds the buffer
empty (R152, R160)? -/
def mxArrived (s : State) (n : Nat) : Bool :=
  match headRun s n with
  | some (h, _, _, cfg) =>
    headReady s n h && !h.bad && !headFrozen s h &&
      !(confOut (soundMem s) n cfg && !(s.core n).eng.emit.isEmpty)
  | none => false

/-- The fields of MXCFG that a gang compares: WIN, ABITS, OUTFMT and KNS (R152). -/
def comparedCfg (w : Word) : Word := w &&& 0x3C7FFF

/-- One member starts: its queue entry becomes the running operation, with an MXRUN record (R152, R274). -/
def startMember (s : State) (base size n : Nat) (h : EHead) (set : Bool) (m : Nat) (c : MxConf) (v : Vec)
    (tiles : List (Nat × Nat)) : State :=
  let run : MxOp :=
    { head := h, set := set, n := m, conf := c, mxcfg := (s.core n).eng.mxcfg, base := base, size := size, entry := v,
      tiles := tiles, pre := 16, begun := 0, done := 0, steps := [], buf := [], held := false, trapped := false,
      tail := none }
  let s := (popEngine s n).modEng n (fun e => { e with run := some run, mxdone := 0, mxremn := BitVec.ofNat 16 m })
  recordHead s n h 0x0C ((if set then 65536 else 0) + m)

/-- What one member's checks at the start read of its tensor A, where its layout unit does not hold it: their soft errors (R151,
R202, R267). -/
def noteA (s : State) (n kp : Nat) (h : EHead) (m : Nat) (cfg : Option Word) : State :=
  match parseConf (soundMem s) n cfg with
  | none => s
  | some c =>
    if !c.asrc then s
    else
      let s := noteEntry s n h.rid c.tid (8 + h.slot % 8) h.tid
      match findEntry s n h.rid c.tid with
      | none => s
      | some (e, held) =>
        if e.fmt ≠ c.afmt || (tableAsk s n h.rid e held).isSome then s
        else noteWords s n h.rid c.tid (8 + h.slot % 8) h.tid e held.isSome
          ((tilesA e c kp m).filterMap (fun t => e.tileNo [t.1, t.2, 0, 0]))

/-- What one member's checks at the start find. -/
def checkMember (s : State) (n kp : Nat) (h : EHead) (m : Nat) (cfg : Option Word) : Option (MxConf × TensorA) :=
  match parseConf (soundMem s) n cfg with
  | none => none
  | some c => some (c, resolveA s n h.rid c kp m)

/-- The layout unit of a member reads an entry of A that it does not hold, and may then hold it (R190, R202). -/
def missA (s : State) (n : Nat) (h : EHead) (c : MxConf) (tns : List Nat) : State :=
  match (if c.asrc then findEntry s n h.rid c.tid else none) with
  | some (e, none) =>
    let lines := missLines s n h.rid c.tid e tns
    sampleLines (readMissed s n h.rid c.tid (8 + h.slot % 8) h.tid lines) n lines
  | _ => s

/-- MXRUN_START at a gang's first core: the comparison, on a failure of which every member traps, the configurations and the
start clock B0 (R151, R152, R376, R456). -/
def startGang (s : State) (lead : Nat) : State :=
  let size := gangSize s lead
  let ms := gangCores lead size
  let heads := ms.filterMap (fun n => (headRun s n).map (fun r => (n, r)))
  if lead % size ≠ 0 || !ms.all (mxArrived s) then s
  else
    let key (e : Nat × (EHead × Bool × Nat × Option Word)) : Bool × Nat × Word :=
      (e.2.2.1, e.2.2.2.1, comparedCfg (s.core e.1).eng.mxcfg)
    match heads with
    | [] => s
    | x :: _ =>
      let ks := ksOf (s.core x.1).eng.mxcfg
      let fail (l : List (Nat × (EHead × Bool × Nat × Option Word))) (s : State) : State :=
        engineFatals (l.foldl (fun s e => popEngine s e.1) s) (l.map (fun e => (e.1, e.2.1))) cENGINE 0
      if heads.any (fun e => key e ≠ key x) then fail heads s
      else
        let s := heads.foldl (fun s e => match e.2.2.2.2 with
          | some a => noteRead s (.core e.1) (8 + e.2.1.slot) (some e.2.1.tid) (keyL e.1 a.toNat) 32
          | none => s) s
        let s := heads.foldl (fun s e => noteA s e.1 ((e.1 - lead) % ks) e.2.1 e.2.2.2.1 e.2.2.2.2) s
        let checks := heads.map (fun e => (e, checkMember s e.1 ((e.1 - lead) % ks) e.2.1 e.2.2.2.1 e.2.2.2.2))
        let broken := checks.filter (fun c => match c.2 with | none => true | some (_, .bad) => true | _ => false)
        let asks := checks.filterMap (fun c =>
          match c.2 with | some (_, .ask va f) => some (c.1.1, c.1.2.1, va, f) | _ => none)
        if !broken.isEmpty then fail (broken.map (fun c => c.1)) s
        else if !asks.isEmpty then asks.foldl (fun s a => engineAsk s a.1 a.2.1 a.2.2.1 a.2.2.2 false) s
        else
          checks.foldl (fun s c =>
            match c.2 with
            | some (conf, .ok v tiles) =>
              startMember (missA s c.1.1 c.1.2.1 conf (tiles.map (fun e => e.1))) lead size c.1.1 c.1.2.1 c.1.2.2.1 c.1.2.2.2.1 conf v tiles
            | _ => s) s

/-- MXRUN_START (R152). -/
def execMxrunStart (core : Nat) (s : State) : Result := .next (startGang s core)

/-! ### The steps (R150, R153, R164, R165) -/

/-- The bytes of an element of A. -/
def aSize (c : MxConf) : Nat := laneBits (etyOf c.afmt) / 8

/-- The QMA chunks of a row (R151). -/
def rowChunks (c : MxConf) : Nat := 8 * aSize c

/-- A row of A from its chunks (R151). -/
def rowOfChunks (c : MxConf) (buf : List Vec) : List (Option (Int × Int)) :=
  let w := 8 * aSize c
  ((buf.map (fun v => (List.range (512 / w)).map (fun j => elementValue c.afmt (laneOf w v j))))).flatten

/-- The key of tensor element (x0, x1) of A (R151, R200). -/
def elemKey (n : Nat) (r : MxOp) (e : Tensor) (x0 x1 : Nat) : Nat :=
  let e0 := e.ext.getD 0 0
  let e1 := e.ext.getD 1 0
  let tn := (e.tileNo [x0 / 2 ^ e0, x1 / 2 ^ e1, 0, 0]).getD 0
  keyL n (assocGet r.tiles tn 0 + aSize r.conf * (x0 % 2 ^ e0 + 2 ^ e0 * (x1 % 2 ^ e1)))

/-- Tensor element (x0, x1) of A; zero outside the dimensions (R151, R200). -/
def tensorElem (m : List Host.Cell) (n : Nat) (r : MxOp) (e : Tensor) (x0 x1 : Nat) : Option (Int × Int) :=
  if x0 < e.dims.getD 0 0 && x1 < e.dims.getD 1 0 then
    elementValue r.conf.afmt (Memory.readLE m (elemKey n r e x0 x1) (aSize r.conf))
  else some (0, 0)

/-- Row i of step j of A on a member (R150, R151). -/
def rowA (s : State) (n : Nat) (r : MxOp) (j i : Nat) : RowPack :=
  let l :=
    if r.conf.asrc then
      let e := parseTensor r.entry
      (stepCols r.conf ((n - r.base) % ksOf r.mxcfg)).map (fun x1 =>
        tensorElem s.mem n r e ((r.conf.row0 + r.conf.rstep * j + i) % 65536) x1)
    else rowOfChunks r.conf r.buf
  packRow (abitsOf r.mxcfg) l

/-- P, the clocks from one step's start to the next (R153). -/
def stepPeriod (r : MxOp) : Nat := max (16 * abitsOf r.mxcfg) (64 * (ksOf r.mxcfg - 1))

/-- The age at which a step completes (R153). -/
def stepEnd (r : MxOp) : Nat := 16 * abitsOf r.mxcfg + 64 * (ksOf r.mxcfg - 1) + 15

/-- May the next step begin in the clock that a tick enters, holds of R165 apart? -/
def stepDue (r : MxOp) : Bool :=
  r.begun < r.n && (match r.steps.getLast? with | some x => stepPeriod r ≤ x.age + 1 | none => true)

/-- The steps one clock later, with a step begun. -/
def ageSteps (r : MxOp) (start : Bool) : List StepRun :=
  r.steps.map (fun x => { x with age := x.age + 1 }) ++ (if start then [⟨r.begun, 0, []⟩] else [])

/-- The step and row that the youngest of these steps packs in this clock, the first bit-plane clock of the row. Its chunks must
have left QMA by then: this is the one clock in which a chunk is missing (DESIGN CHOICE, unsafe: R153 says 'when its row is packed' and names
no clock; log entry 16). -/
def rowDue (r : MxOp) (steps : List StepRun) : Option (Nat × Nat) :=
  match steps.getLast? with
  | some x => if x.rows.length < 16 && x.age = x.rows.length * abitsOf r.mxcfg then some (x.j, x.rows.length) else none
  | none => none

/-- Add a packed row to the youngest step. -/
def addRow (l : List StepRun) (p : RowPack) : List StepRun :=
  match l with
  | [] => []
  | [x] => [{ x with rows := x.rows ++ [p] }]
  | x :: r => x :: addRow r p

/-- The scratchpad words of a row of a tensor A are read, the armed one among them (R151, R267). -/
def noteRow (s : State) (n : Nat) (r : MxOp) (j i : Nat) : State :=
  if s.bar.injected.isNone || !r.conf.asrc then s
  else
    let e := parseTensor r.entry
    let x0 := (r.conf.row0 + r.conf.rstep * j + i) % 65536
    (stepCols r.conf ((n - r.base) % ksOf r.mxcfg)).foldl (fun s x1 =>
      if x0 < e.dims.getD 0 0 && x1 < e.dims.getD 1 0 then noteRead s (.core n) (8 + r.head.slot) (some r.head.tid) (elemKey n r e x0 x1) (aSize r.conf)
      else s) s

/-- One member's next clock; the hold lasts until the clock in which the next step begins (R165). -/
def tickMember (s : State) (n : Nat) (start trapped : Bool) : State :=
  match (s.core n).eng.run with
  | none => s
  | some r =>
    let steps := ageSteps r start
    let s := match rowDue r steps with | some (j, i) => noteRow s n r j i | none => s
    let (steps, buf) := match rowDue r steps with
      | some (j, i) => (addRow steps (rowA s n r j i), if r.conf.asrc then r.buf else r.buf.drop (rowChunks r.conf))
      | none => (steps, r.buf)
    s.modEng n (fun e => { e with run := some { r with
      pre := 0, steps := steps, buf := buf, begun := r.begun + (if start then 1 else 0), trapped := trapped
      held := (trapped || r.trapped) && steps.isEmpty && r.begun < r.n } })

/-- Is a member's thread trapped, or held by a translation fault (R165)? -/
def memberTrapped (s : State) (n : Nat) : Bool :=
  match (s.core n).eng.run with
  | some r =>
    !r.head.timed && (match s.ownerThread n r.head.tid with
      | some t => t.mode = 1 || t.life.faulted.isSome || t.life.saving.isSome
      | none => false)
  | none => false

/-- One clock of the gang operation that core `lead` leads (R153, R164, R165). -/
def tickGang (s : State) (lead : Nat) : State :=
  match (s.core lead).eng.run with
  | none => s
  | some r =>
    let ms := gangCores lead r.size
    let trapped := ms.any (memberTrapped s)
    if r.base ≠ lead || r.tail.isSome || headFrozen s r.head then s
    else if 1 < r.pre then
      ms.foldl (fun s n => s.modEng n (fun e => { e with run := e.run.map (fun q => { q with pre := q.pre - 1, trapped := trapped }) })) s
    else
      let start := stepDue r && !trapped && !r.trapped
      let due := (rowDue r (ageSteps r start)).isSome
      let missing := due && ms.any (fun n => match (s.core n).eng.run with
        | some q => !q.conf.asrc && q.buf.length < rowChunks q.conf
        | none => false)
      if missing then
        if r.head.timed then
          let l := (ms.filterMap (fun n => (s.core n).eng.run.map (fun q => (n, q.head)))).filter (fun e => !headEnding s e.2)
          engineFatals (l.foldl (fun s e => recordHead s e.1 e.2 0x18 0) s) l cTIMING 0
        else s
      else ms.foldl (fun s n => tickMember s n start trapped) s

/-- Take chunks that have landed in QMA, up to a number (R81, R151). -/
def takeChunks (fuel : Nat) (q : List PortSlot) : List Vec × List PortSlot :=
  match fuel, q with
  | fuel + 1, e :: r =>
    match e.val with
    | some v => (v :: (takeChunks fuel r).1, (takeChunks fuel r).2)
    | none => ([], e :: r)
  | _, q => ([], q)

/-- The chunks that a core's running operation still wants for its next row. -/
def chunksWanted (r : MxOp) : Nat :=
  let packed := match r.steps.getLast? with | some x => x.rows.length | none => 16
  if r.conf.asrc || r.tail.isSome || (r.begun = r.n && packed = 16) then 0 else rowChunks r.conf - r.buf.length

/-- Would a chunk of QMA be taken now? -/
def chunkReady (s : State) (n : Nat) : Bool :=
  match (s.core n).eng.run, (s.core n).eng.qma with
  | some r, e :: _ => 0 < chunksWanted r && e.val.isSome && !headFrozen s r.head
  | _, _ => false

/-- QMA_CHUNK_ARRIVAL: chunks leave QMA for the row being gathered (R151, R153). -/
def execQmaChunkArrival (core : Nat) (s : State) : Result :=
  .next (if chunkReady s core then
    s.modEng core (fun e =>
      match e.run with
      | some r =>
        let (l, q) := takeChunks (chunksWanted r) e.qma
        { e with qma := q, run := some { r with buf := r.buf ++ l } }
      | none => e)
    else s)

/-- The members' rows of the step that completes. -/
def stepRowsOf (c : Core) : List RowPack :=
  match c.eng.run with
  | some r => match r.steps with | x :: _ => x.rows | [] => []
  | none => []

/-- Is the oldest step of the operation that core n leads complete in this clock? -/
def stepComplete (s : State) (n : Nat) : Bool :=
  match (s.core n).eng.run with
  | some r => r.base = n && r.tail.isNone &&
      (match r.steps with | x :: _ => stepEnd r ≤ x.age && x.rows.length = 16 | [] => false)
  | none => false

/-- Merge the oldest step into the sets of the reducing cores (R157). -/
def mergeGang (s : State) (r : MxOp) : State :=
  let ks := ksOf r.mxcfg
  (List.range (r.size / ks)).foldl (fun s np =>
    let red := r.base + np * ks
    let ms := (List.range ks).map (fun kp => ((s.core (red + kp)).mx, stepRowsOf (s.core (red + kp))))
    s.modMx red (mergeStep (winOf r.mxcfg) r.set ms)) s

/-- Is the armed injection one of the CIM of core n, taken by a load (R267)? The target word is at the place that the image
of an evicted core gives the weights: macro, row, column (R263). -/
def cimInjected (s : State) (n : Nat) : Option (Nat × Nat) :=
  let e := s.bar.errinj
  let target : Word := (e.extractLsb' 0 48).setWidth 64
  let off := gOff target % 0x20000
  if s.bar.injected.isSome && e.getLsbD 63 && e.extractLsb' 60 3 = 3 && e.extractLsb' 58 2 ≠ 3 && gCore target = n then
    some (off / 0x8000, off % 0x8000 / 64)
  else none

/-- A load of macros takes an armed injection of one of them (R267). -/
def noteCimLoad (s : State) (n : Nat) (mask : BitVec 4) : State :=
  let t := { s with bar := { s.bar with injected := some 0 } }
  match cimInjected t n with
  | some (mac, _) => if mask.getLsbD mac then t else s
  | none => s

/-- A CIM parity error is found: logged and recorded; the row is reloaded, or it is region-fatal in a timed domain (R169,
R266, R267). -/
def cimError (s : State) (n mac row : Nat) (timed : Bool) (rid : BitVec 16) (slot : Nat) (own : Option Nat) : State :=
  let addr : Word := (s.bar.errinj.extractLsb' 0 48).setWidth 64
  let s := { s with bar := { s.bar with errinj := s.bar.errinj &&& ~~~((1 : Word) <<< 63), injected := none } }
  let s := logError s (BitVec.ofNat 2 (dieOf n)) addr 3 (8 + slot % 8) (!timed) rid
  let s := recordCore s n 0x12 slot (s.tagOf rid) (aForm addr (3 * 2 ^ 31 + (if timed then 0 else 2 ^ 30))) none own
  if timed then fatalFor s n slot rid cECC 0 0 0 (eccValue 3 addr) else s.modMx n (reloadRow s.mem n mac row)

/-- A step reads every row of its core's macros (R169). -/
def noteCimStep (s : State) (n : Nat) : State :=
  match (s.core n).eng.run, cimInjected s n with
  | some r, some (mac, row) => cimError s n mac row r.head.timed r.head.rid r.head.slot (some r.head.tid)
  | _, _ => s

/-- One member's counts after a step; after the last, its MXDONE record and its end, or its emission (R153, R160, R274). -/
def memberStepDone (s : State) (n : Nat) : State :=
  match (s.core n).eng.run with
  | none => s
  | some r =>
    let old := mxstatWord (s.core n).eng
    let s := s.modEng n (fun e => { e with
      mxdone := e.mxdone + 1, mxremn := e.mxremn - 1
      run := some { r with steps := r.steps.drop 1, done := r.done + 1 } })
    let s := s.modNet n (fun e => noteUpdate e s.sched.clock 0x11 0 old)
    if r.done + 1 < r.n then s
    else
      let mx := (s.core n).mx
      let nib := if (n - r.base) % ksOf r.mxcfg = 0 then setNibbles (if r.set then mx.acc1 else mx.acc0) else 0
      let s := recordHead s n r.head 0x0D (nib * 2 ^ 17 + (if r.set then 65536 else 0) + r.n)
      if r.conf.out then s.modEng n (fun e => { e with run := e.run.map (fun q => { q with tail := some 16 }) })
      else finishE (s.modEng n (fun e => { e with run := none })) r.head false

/-- MXRUN_STEP_COMPLETE at a gang's first core: the merge of a step (R153, R157). -/
def execMxrunStepComplete (core : Nat) (s : State) : Result :=
  .next (match (s.core core).eng.run with
    | some r => if stepComplete s core then
        let s := (gangCores r.base r.size).foldl noteCimStep s
        (gangCores r.base r.size).foldl memberStepDone (mergeGang s r)
      else s
    | none => s)

/-- MXRUN_EMISSION: 16 clocks after the last step the converted set stands in the emission buffer of a reducing core, and
the token is done (R160). -/
def execMxrunEmission (core : Nat) (s : State) : Result :=
  .next (match (s.core core).eng.run with
    | some r =>
      if r.tail = some 0 then
        let l := if (core - r.base) % ksOf r.mxcfg = 0 then
          emitChunks (outfmtOf r.mxcfg) r.conf.osh (s.core core).mx r.set else []
        finishE (s.modEng core (fun e => { e with run := none, emit := l, emitBy := r.head.rid })) r.head false
      else s
    | none => s)

/-! ### Loads, clears, snapshots and emission, clock by clock -/

/-- MXLDB_LOAD: the macros hold their image, whose bytes are all read in this clock, the last of the load (R148; DESIGN CHOICE, unsafe: R148
gives the time that the load takes and not the clock in which a byte is read; log entry 64). -/
def execMxldbLoad (core : Nat) (s : State) : Result :=
  .next (match (s.core core).eng.queue with
    | q :: _ =>
      match q.kind, q.left with
      | .mxldb mask addr, some 0 =>
        let key := keyL core addr.toNat
        let s := noteRead s (.core core) (8 + q.head.slot) (some q.head.tid) key
          (64 + (macrosOf mask).length * macroBytes (Memory.read s.mem key).toNat)
        finishE (noteCimLoad ((popEngine s core).modMx core (loadImage s.mem core addr.toNat mask)) core mask) q.head false
      | _, _ => s
    | [] => s)

/-- MXCLR_DONE: the set is clear (R162). -/
def execMxclrDone (core : Nat) (s : State) : Result :=
  .next (match (s.core core).eng.queue with
    | q :: _ =>
      match q.kind, q.left with
      | .mxclr set, some 0 => finishE ((popEngine s core).modMx core (fun x => clearSet x set)) q.head false
      | _, _ => s
    | [] => s)

/-- The head of a core's engine queue, one clock: an MXLDB or MXCLR starts, or comes nearer its end; one that consumed a
dropped token is abandoned (R148, R149, R154, R162, R229). A clear has no effect on memory, so it waits for its tokens alone (R218,
R371). -/
def tickQueue (s : State) (n : Nat) : State :=
  match (s.core n).eng.queue, (s.core n).eng.run with
  | q :: _, none =>
    let setLeft (k : Nat) : State :=
      s.modEng n (fun e => { e with queue := match e.queue with | q :: r => { q with left := some k } :: r | [] => [] })
    if headFrozen s q.head then s
    else
      match q.left with
      | some k => setLeft (k - 1)
      | none =>
        let ready : Bool := match q.kind with | .mxclr _ => q.head.waits.isEmpty | _ => headReady s n q.head
        if !ready then s
        else if q.head.bad then finishE (popEngine s n) q.head true
        else
          match q.kind with
          | .mxldb mask addr =>
            if imageOk s.mem n addr mask then
              setLeft (if (Memory.read s.mem (keyL n addr.toNat)).toNat ≥ 4 then 1023 else 511)
            else
              engineFatal ((popEngine s n).modMx n (fun x => (macrosOf mask).foldl zeroMacro x)) n q.head cENGINE 0
          | .mxclr _ => setLeft 15
          | .mxrun _ _ _ => s
  | _, _ => s

/-- Is a merge into a set, or its clear, under way on a core in this clock (R161)? -/
def setBusy (c : Core) (set : Bool) (n : Nat) : Bool :=
  (match c.eng.run with
    | some r => r.set = set && (n - r.base) % ksOf r.mxcfg = 0 && r.tail.isNone &&
        r.steps.any (fun x => stepEnd r - 15 ≤ x.age)
    | none => false) ||
  (match c.eng.queue with
    | q :: _ => (match q.kind with | .mxclr t => t = set && q.left.isSome | _ => false)
    | [] => false)

/-- Has the thread of an instruction been saved for an eviction (R263)? -/
def savedHead (s : State) (h : EHead) : Bool :=
  match liveThread s h.tid with | some t => t.life.saving = some 0 && t.life.resuming | none => false

/-- A snapshot is read in the clock after its issue, or once its tokens and a merge or clear under way are done, and its registers are written
by its due clock (R82, R161; log entry 5). That of a saved thread waits for its restore (R223, R263). -/
def tickRead (s : State) (n : Nat) (r : RdOp) : State :=
  if r.got.isSome || !r.head.waits.isEmpty || savedHead s r.head then s
  else if r.head.bad then
    finishE (s.modEng n (fun e => { e with rds := e.rds.filter (fun x => x.head.id ≠ r.head.id) })) r.head true
  else if setBusy (s.core n) (r.sel.getLsbD 0) n then s
  else
    let mx := (s.core n).mx
    let got := if r.flags then (snapshotFlags mx r.sel, 0) else snapshotRow mx r.sel
    let s := (s.modEng n (fun e => { e with
      rds := e.rds.map (fun x => if x.head.id = r.head.id then { x with got := some got } else x) })).tickFresh
    let span := if s.sched.clock < r.due then r.due - s.sched.clock else 31
    s.schedule (s.sched.clock + 1 + Config.delay s.sched.fresh % span) (.mxrdDone n r.head.id)

/-- MXRD_DONE: the snapshot is written to its registers and the token is done (R161). -/
def execMxrdDone (core id : Nat) (s : State) : Result :=
  .next (match (s.core core).eng.rds.find? (fun r => r.head.id = id) with
    | some r =>
      match r.got with
      | some (v, w) =>
        let s := s.modEng core (fun e => { e with rds := e.rds.filter (fun x => x.head.id ≠ id) })
        let s := mapTid s r.head.tid (fun t => { t with
          regs := (t.regs.put (.v r.d) v).put (b4reg (if r.flags then 0 else r.b)) (w.setWidth 512) })
        finishE s r.head false
      | none => s
    | none => s)

/-- Is the emission of a core held by the freeze of its region's domain (R164)? -/
def emitFrozen (s : State) (n : Nat) : Bool :=
  match s.domain (s.core n).eng.emitBy with | some d => d.frozen | none => false

/-- One chunk of the emission buffer moves to QMR (R160). -/
def tickEmit (s : State) (n : Nat) : State :=
  match (s.core n).eng.emit with
  | v :: r =>
    if (s.core n).eng.qmr.length < 16 && !emitFrozen s n then
      s.modEng n (fun e => { e with emit := r, qmr := e.qmr ++ [v] })
    else s
  | [] => s

/-- An emission copy's clocks (R160). -/
def tickTail (s : State) (n : Nat) : State :=
  match (s.core n).eng.run with
  | some r =>
    match r.tail with
    | some (k + 1) => if headFrozen s r.head then s else
        s.modEng n (fun e => { e with run := some { r with tail := some k } })
    | _ => s
  | none => s

/-- One clock of a core's gang engine. -/
def tickEngine (s : State) (n : Nat) : State :=
  let s := tickEmit s n
  let s := tickTail s n
  let s := tickGang s n
  let s := tickQueue s n
  (s.core n).eng.rds.foldl (fun s r => tickRead s n r) s

/-- The gang engine's events that a core has in this clock. -/
def engineEvents (s : State) (n : Nat) : List Event :=
  let e := (s.core n).eng
  (if e.queue.any (fun q => match q.kind, q.left with | .mxldb _ _, some 0 => true | _, _ => false) then [.mxldbLoad n] else []) ++
  (if e.queue.any (fun q => match q.kind, q.left with | .mxclr _, some 0 => true | _, _ => false) then [.mxclrDone n] else []) ++
  (if e.run.any (fun r => r.tail = some 0) then [.mxrunEmission n] else []) ++
  (if stepComplete s n then [.mxrunStepComplete n] else []) ++
  (if chunkReady s n then [.qmaChunkArrival n] else [])

/-- Does the gang that a core leads stand at its wired barrier (R152)? -/
def gangArrived (s : State) (n : Nat) : Bool := n = gangBase s n && (gangCores n (gangSize s n)).all (mxArrived s)

end Sys2Proof.Machine
end

