-- ==== Sys2Proof/Machine/Records.lean ====
section
/-! DEFINITION. Task records: their fields, their checks, the die that receives one and its eligible cores (R24 to R27,
R45, R296). -/

namespace Sys2Proof.Machine

/-- A byte field of a 64-byte value: n bytes from byte `lo` (R6). -/
def byteField (v : Vec) (lo n : Nat) : Nat := (v.extractLsb' (8 * lo) (8 * n)).toNat

/-- A task record (R24). -/
structure Trec where
  entry : Word
  c0 : BitVec 16
  c1 : BitVec 16
  c2 : BitVec 16
  tflags : BitVec 16
  arg : Word
  trid : BitVec 16
  tpri : Nat
  place : Nat
  pairs : List (Nat × Nat)
  deriving DecidableEq, Repr

/-- A record from its 64 bytes (R24). -/
def parseTrec (v : Vec) : Trec :=
  { entry := BitVec.ofNat 64 (byteField v 0 8)
    c0 := BitVec.ofNat 16 (byteField v 8 2), c1 := BitVec.ofNat 16 (byteField v 10 2), c2 := BitVec.ofNat 16 (byteField v 12 2)
    tflags := BitVec.ofNat 16 (byteField v 14 2), arg := BitVec.ofNat 64 (byteField v 16 8)
    trid := BitVec.ofNat 16 (byteField v 24 2), tpri := byteField v 26 1, place := byteField v 27 5
    pairs := [0, 1, 2, 3].map (fun i => (byteField v (32 + 8 * i) 8 % 2 ^ 20, byteField v (32 + 8 * i) 8 / 2 ^ 20)) }

/-- GSIZE (R25). -/
def Trec.gsize (t : Trec) : Nat := (t.tflags.extractLsb' 2 3).toNat

/-- The gang size that GSIZE stands for (R25). -/
def Trec.members (t : Trec) : Nat := 2 ^ log2Gang t.gsize

/-- The placement mode (R26). -/
def Trec.mode (t : Trec) : Nat := t.place / 2 ^ 36

/-- The placement argument (R26). -/
def Trec.parg (t : Trec) : Nat := t.place % 2 ^ 36

/-- The preferred slot (R25). -/
def Trec.spref (t : Trec) : Nat := (t.tflags.extractLsb' 5 3).toNat

/-- The used readiness pairs (R31). -/
def Trec.used (t : Trec) : List (Nat × Nat) := t.pairs.filter (fun p => p.1 ≠ noCounter)

/-- Has an argument no bits that its mode does not use (R26)? -/
def placeOk (mode arg : Nat) : Bool :=
  match mode with
  | 0 => arg = 0 | 1 => arg < 2 ^ 16 | 2 => arg < 2 ^ 7 | 3 => arg = 0 | 4 => arg = 0 | 5 => arg < 4 | _ => false

/-- The first byte offset at which a record breaks a test that needs no region (R27). -/
def trecFields (t : Trec) : Option Nat :=
  if t.entry.toNat % 32 ≠ 0 then some 0
  else if t.tflags.toNat / 2 ^ 9 ≠ 0 || 5 ≤ t.gsize then some 14
  else if 16 ≤ t.tpri then some 26
  else if !placeOk t.mode t.parg then some 27
  else none

/-- The core of a region with a VCN (R22). -/
def coreOfVcn (r : Region) (v : Nat) : Option Nat := r.cores[v]?

/-- The VCN of a core in a region (R22). -/
def vcnOf (r : Region) (n : Nat) : Nat := r.cores.idxOf n

/-- The logical index of a task (R297). -/
def Trec.logical (t : Trec) : Nat := t.c0.toNat + 2 ^ 16 * t.c1.toNat + 2 ^ 32 * t.c2.toNat

/-- The core of a deterministic task's list (R297). -/
def listCore (r : Region) (t : Trec) : Nat := r.cores.getD (t.logical % r.cores.length) 0

/-- The die that receives a record of a region, from a spawning core, or none for a root record, which goes to the die of VCN 0; a
deterministic record goes to the die of its list (R44, R45, R297; log entry 33). -/
def recordDieOf (r : Region) (t : Trec) (spawner : Option Nat) : Nat :=
  let lowest := dieOf (r.cores.headD 0)
  let here := dieOf (spawner.getD (r.cores.headD 0))
  if r.det then dieOf (listCore r t)
  else if spawner.isNone then lowest
  else match t.mode with
  | 1 => match coreOfVcn r t.parg with | some n => dieOf n | none => lowest
  | 2 => t.parg % 4
  | 5 => t.parg
  | 3 => here
  | 4 => here
  | _ => if r.cores.any (fun n => dieOf n = here) then here else lowest

/-- The cores of a region that a record's placement names, in ascending VCN (R26). -/
def namedCores (r : Region) (t : Trec) (spawner : Option Nat) : List Nat :=
  let here := spawner.getD (r.cores.headD 0)
  r.cores.filter (fun n =>
    match t.mode with
    | 0 => true
    | 1 => coreOfVcn r t.parg = some n
    | 2 => dieOf n = t.parg % 4 && rowOf n = t.parg / 4
    | 3 => n = here
    | 4 => n / 32 = here / 32
    | 5 => dieOf n = t.parg
    | _ => false)

/-- The eligible cores of a record on its receiving die, in ascending VCN (R26, R45). -/
def eligible (r : Region) (t : Trec) (spawner : Option Nat) : List Nat :=
  (namedCores r t spawner).filter (fun n => dieOf n = recordDieOf r t spawner)

/-- The first byte offset at which a record with these eligible cores breaks a test against its region (R27, R296). -/
def trecRegion (r : Region) (t : Trec) (cores : List Nat) : Option Nat :=
  if (t.gsize ≠ 0 && t.gsize ≠ r.gpart.toNat) || t.tflags.getLsbD 0 != r.timed || t.tflags.getLsbD 1 != r.det then some 14
  else if (t.gsize ≠ 0 && !(t.mode = 0 || t.mode = 2 || t.mode = 5)) || (r.det && t.mode ≠ 0) ||
      cores.isEmpty then some 27
  else ((t.pairs.zipIdx).find? (fun p => p.1.1 ≠ noCounter && r.pooln ≤ p.1.1)).map (fun p => 32 + 8 * p.2)

/-- TRAPV of an ILLEGAL that names a byte offset (R225, R396). -/
def offsetValue (off : Nat) : Word := BitVec.ofNat 64 (2 ^ 62 + off)

/-- The region that TRID names for a spawner (R27). -/
def Trec.target (t : Trec) (spawner : BitVec 16) : BitVec 16 := if t.trid = 0 then spawner else t.trid

/-- The three stages of SPAWN's check: the trap, if any (R27, R396). -/
def spawnCheck (s : State) (rid : BitVec 16) (n : Nat) (t : Trec) : Option (BitVec 16 × Word) :=
  match trecFields t with
  | some o => some (cILLEGAL, offsetValue o)
  | none =>
    match s.region (t.target rid) with
    | none => some (cPRIV, t.trid.setWidth 64)
    | some r =>
      if !s.within rid r.rid then some (cPRIV, t.trid.setWidth 64)
      else (trecRegion r t (eligible r t (some n))).map (fun o => (cILLEGAL, offsetValue o))

/-- Is a packet a record that a die's dispatch unit has still to accept? -/
def recordGoing (d : Nat) (p : Packet) : Bool :=
  match p.cargo with | .record e _ => e.toNat = d && !p.landed | _ => false

/-- Is an E instruction a SPAWN that has not departed for a die? -/
def spawnGoing (d : Nat) (j : Job) : Bool := match j.kind with | .spawn e _ => e.toNat = d | _ => false

/-- Is a die's dispatch unit full? A record issued keeps its place on its way there, so that the unit accepts it: records in packets and
in SPAWNs that have not departed count (R34, R249). -/
def dispatchFull (s : State) (d : Nat) : Bool :=
  let jobs := sumNat (s.cores.map (fun c => (c.2.net.jobs.filter (spawnGoing d)).length))
  Config.dispatchRecords ≤ (s.die (BitVec.ofNat 2 d)).disp.length + (s.net.filter (recordGoing d)).length + jobs

/-- The pseudo core number that stands for a die's dispatch unit as a route's end. -/
def dispatchEnd (d : Nat) : Nat := 3072 + d

end Sys2Proof.Machine
end

