-- ==== Sys2Proof/Machine/Copies.lean ====
section
/-! DEFINITION. Meanings of CPY, WMSET, SEND, SNLD and SPAWN as they issue (R224 to R227, R234, R237, R245 to R249, R340,
R341, R389, R390, R394 to R396, R442). -/

namespace Sys2Proof.Machine

/-! ### Copy commands (R226, R227) -/

/-- A copy command (R226). -/
structure CopyCmd where
  kind : Nat
  mb : BitVec 6
  tv : Bool
  wch : BitVec 3
  wv : Bool
  strm : Nat
  len : Nat
  src : Word
  dst : Word
  spitch : Int
  dpitch : Int
  rows : Nat
  bar : Nat
  tcoord : Word
  tid : Nat
  deriving DecidableEq, Repr

/-- A command from its 64 bytes (R226). -/
def parseCopy (v : Vec) : CopyCmd :=
  { kind := byteField v 0 1, mb := BitVec.ofNat 6 (byteField v 1 1), tv := byteField v 1 1 / 64 % 2 = 1
    wch := BitVec.ofNat 3 (byteField v 2 1), wv := byteField v 2 1 / 8 % 2 = 1, strm := byteField v 3 1
    len := byteField v 4 4, src := BitVec.ofNat 64 (byteField v 8 8), dst := BitVec.ofNat 64 (byteField v 16 8)
    spitch := signedLane 32 (byteField v 24 4), dpitch := signedLane 32 (byteField v 28 4), rows := byteField v 32 2
    bar := byteField v 40 8, tcoord := BitVec.ofNat 64 (byteField v 48 8), tid := byteField v 56 2 }

/-- The byte offsets that break a rule of R226 or R227, with their tests, in ascending order. -/
def copyTests (v : Vec) : List (Nat × Bool) :=
  let c := parseCopy v
  let plain : Bool := c.kind ≤ 3
  [(0, c.kind = 0 || 5 < c.kind), (1, 128 ≤ byteField v 1 1), (2, 16 ≤ byteField v 2 1 || (c.wv && (c.kind = 2 || c.kind = 5))),
    (3, 16 ≤ c.strm),
    (4, if plain then c.len < 4 || 0x1000000 < c.len || c.len % 4 ≠ 0 else c.len = 0 || 4096 < c.len),
    (8, c.kind = 4 && c.src ≠ 0), (16, c.kind = 5 && c.dst ≠ 0), (24, c.spitch % 4 ≠ 0), (28, c.dpitch % 4 ≠ 0),
    (32, c.rows = 0), (34, byteField v 34 6 ≠ 0), (48, plain && c.tcoord ≠ 0),
    (56, if plain then c.tid ≠ 0 else 4096 ≤ c.tid), (58, byteField v 58 6 ≠ 0)]

/-- The first offending byte offset (R225). -/
def copyIll (v : Vec) : Option Nat := ((copyTests v).find? (fun e => e.2)).map (fun e => e.1)

/-- An address at a signed distance from a base. -/
def offsetAddr (a : Word) (d : Int) : Word := a + BitVec.ofInt 64 d

/-- The bytes of a local row of tiles: 64 each, or for K4 the 16 code bytes of each and then the scale bytes of all, in the order of the
tiles (R137, R201, R227; log entry 28). -/
def tileRow (e : Tensor) (len : Nat) : Nat := if e.fmt = 8 then 17 * len else 64 * len

/-- The place of the scale byte of tile j in a local row of K4 tiles (log entry 28). -/
def tileScale (len j : Nat) : Nat := 16 * len + j

/-- The alignment trap of a command (R226). -/
def copyAlign (c : CopyCmd) : Option (BitVec 16 × Word) :=
  if c.src.toNat % 4 ≠ 0 then some (cALIGN, c.src)
  else if c.dst.toNat % 4 ≠ 0 then some (cALIGN, c.dst)
  else if c.bar % 16 ≠ 0 then some (cALIGN, BitVec.ofNat 64 c.bar)
  else none

/-- Does a row of n bytes at an address break its class or range (R173, R184, R227)? -/
def rowBad (s : State) (t : Thread) (n k : Nat) (cls : AClass) (len : Nat) (a : Word) : Bool :=
  match cls with
  | .l => classOf a ≠ .l || !tailOk t k true a.toNat len
  | .m => classOf a ≠ .m || classOf (a + BitVec.ofNat 64 (len - 1)) ≠ .m
  | .g => classOf a ≠ .g || (match spotG s t n k ⟨len, 4, true, .tenant, none, none⟩ a with | .core _ _ _ => false | _ => true)
  | .none => true

/-- The PRIV trap of a span of rows (R225, R227). -/
def spanBad (s : State) (t : Thread) (n k : Nat) (cls : AClass) (base : Word) (pitch : Int) (rows len : Nat) :
    Option (BitVec 16 × Word) :=
  (((List.range rows).map (fun (r : Nat) => offsetAddr base ((r : Int) * pitch))).find? (rowBad s t n k cls len)).map (fun a => (cPRIV, a))

/-- The source and destination classes of a kind (R227). -/
def copyClasses (kind : Nat) : Option AClass × Option AClass :=
  match kind with
  | 1 => (some .m, some .l) | 2 => (some .l, some .m) | 3 => (some .l, some .g) | 4 => (none, some .l) | _ => (some .l, none)

/-- Is the barrier object of a copy, which is at its destination core, on the issuing core (R227)? -/
def barrierHome (s : State) (n : Nat) (c : CopyCmd) : Bool := c.kind ≠ 3 || (gCore c.dst = n && peerOf s (gPeer c.dst) ≠ .away)

/-- The PRIV trap of a command's spans, tensor and barrier object (R227, R341). -/
def copyPriv (s : State) (t : Thread) (n k : Nat) (c : CopyCmd) : Option (BitVec 16 × Word) :=
  let ent := if c.kind < 4 then none else findEntry s n t.task.rid c.tid
  let len := match ent with
    | some (e, _) => tileRow e c.len
    | none => c.len
  let va := entryAddr s (BitVec.ofNat 2 (dieOf n)) c.tid
  let tensor := if c.kind < 4 then none else
    match ent with | none => some (cPRIV, va) | some (e, _) => if c.kind = 5 && e.ro then some (cPRIV, va) else none
  let span (cls : Option AClass) (a : Word) (p : Int) := match cls with
    | some cl => spanBad s t n k cl a p c.rows len | none => none
  let barrier := if c.bar ≠ 0 && !tailOk t k (barrierHome s n c) c.bar 16 then some (cPRIV, BitVec.ofNat 64 c.bar) else none
  (((tensor.or (span (copyClasses c.kind).1 c.src c.spitch)).or (span (copyClasses c.kind).2 c.dst c.dpitch))).or barrier

/-- The copy tags in use on a core (R224). -/
def usedTags (c : Core) : List Nat := c.net.jobs.filterMap (fun j => match j.kind with | .copy tag _ _ => some tag | _ => none)

/-- The free copy tags of a core. -/
def freeTags (c : Core) : List Nat := (List.range Config.copyTags).filter (fun x => !(usedTags c).contains x)

/-- Add a job of the issuing thread. -/
def addJob (s : State) (h : EHead) (k : JobKind) : State :=
  s.modNet s.cur.core (fun e => { e with jobs := e.jobs ++ [⟨h, k⟩] })

/-- A copy takes a free tag, an open choice, and its CPYSTART record is written (R224, R274; log entry 5). -/
def startCopy (s : State) (v : Vec) (h : EHead) : State :=
  let tags := freeTags s.ccore
  let s := s.tickFresh
  let tag := tags.getD (Config.pick s.sched.fresh % tags.length) 0
  let s := recordHead s s.cur.core h 0x0E ((parseCopy v).kind * 32 + tag)
  addJob s h (.copy tag v 0)

/-- An E syllable with a vector operand: it holds, or traps TIMING in domain time, until its port has an entry (R70,
R81). -/
def withSource (s : State) (a : Reg) (f : Thread → Vec → State) : State :=
  match s.cth with
  | none => s
  | some t => if portsReady s t [a] none then f t (vecOf (popAll s [a]) t a) else holdOrTiming s sylE

/-- CPY (R225, R340, R341). -/
def execCpy (a : Reg) (k : Toks) (s : State) : Result :=
  .next (withSource s a (fun t v =>
    let c := parseCopy v
    let s := if c.kind < 4 || (copyIll v).isSome then s else noteEntry s s.cur.core t.task.rid c.tid s.cur.slot t.tid
    eSyllable s t k (wordOf (.cpy a k)) ((copyIll v).map (fun o => (cILLEGAL, offsetValue o))) (freeTags s.ccore).isEmpty
      ((copyAlign c).or (copyPriv s t s.cur.core s.cur.slot c)) (fun h s => startCopy (popAll s [a]) v h)))

/-- The first value of a WMSET that breaks R234. -/
def wmsetIll (base limit : Word) : Option (BitVec 16 × Word) :=
  if base.toNat % 64 ≠ 0 || 0x78000 < base.toNat then some (cILLEGAL, base)
  else if limit.toNat % 64 ≠ 0 || 0x78000 < limit.toNat || limit.toNat < base.toNat then some (cILLEGAL, limit)
  else none

/-- WMSET (R234, R442). -/
def execWmset (ch : BitVec 3) (a : Reg) (b : BitVec 4) (k : Toks) (s : State) : Result :=
  .next (match s.cth with
    | none => s
    | some t =>
      let base := t.regs.getX a
      let limit := t.regs.getX (b.setWidth 5)
      eSyllable s t k (wordOf (.wmset ch a b k)) (wmsetIll base limit) false none (fun h s => addJob s h (.wmset ch base.toNat limit.toNat)))

/-! ### SEND (R237, R389, R390) -/

/-- The destination slot of a control word. -/
def ctlSlot (w : Word) : BitVec 3 := w.extractLsb' 59 3

/-- DRID of a control word; 0 names the sender's region. -/
def ctlRegion (w : Word) (rid : BitVec 16) : BitVec 16 := if w.extractLsb' 16 16 = 0 then rid else w.extractLsb' 16 16

/-- DVCN of a control word. -/
def ctlVcn (w : Word) : Nat := (w.extractLsb' 0 16).toNat

/-- Does a message control word break the table of R237, MODE apart? -/
def messageBad (s : State) (w : Word) : Bool :=
  ctlSlot w = 7 || w.extractLsb' 45 14 ≠ 0 ||
    (if w.getLsbD 44 then peerOf s (w.extractLsb' 32 12) ≠ .away else w.extractLsb' 32 12 ≠ 0)

/-- Does a put control word break the table of R237? -/
def putBad (w : Word) : Bool := w.extractLsb' 59 3 ≠ 0 || !w.getLsbD 47 || w.extractLsb' 0 6 ≠ 0

/-- The class-G address of a put (R237). -/
def putAddr (w : Word) : Word := (w.extractLsb' 0 48).setWidth 64

/-- The core that a window message goes to: none where DRID and DVCN name none of the sender's tenant, as the VCNs of a
parked region name none (R244, R262). -/
def messageCore (s : State) (rid : BitVec 16) (w : Word) : Option Nat :=
  match s.region rid, s.region (ctlRegion w rid) with
  | some r, some d => if d.tenant = r.tenant && d.phase ≠ .parked then coreOfVcn d (ctlVcn w) else none
  | _, _ => none

/-- The route of a SEND of mode 0 or 1: destination and peer; none where a message names no core (R239). Of a message to another
package the destination's core number is a free value, which its link depends on (R319; log entry 17). -/
def sendRoute (s : State) (rid : BitVec 16) (w : Word) : Option (Nat × Option (BitVec 12)) :=
  if w.extractLsb' 62 2 = 1 then
    let a := putAddr w
    some (gCore a, gRoute s a)
  else if w.getLsbD 44 then
    let pkg : BitVec 14 := (assocGet s.bar.peers (w.extractLsb' 32 12).toNat (0 : Word)).extractLsb' 0 14
    some (Config.peerCore pkg (ctlRegion w rid) (w.extractLsb' 0 16) % 3072, some (w.extractLsb' 32 12))
  else (messageCore s rid w).map (fun n => (n, none))

/-- Manhattan distance of two cores of a die (R247). -/
def distance (a b : Nat) : Nat :=
  (max (rowOf a) (rowOf b) - min (rowOf a) (rowOf b)) + (max (colOf a) (colOf b) - min (colOf a) (colOf b))

/-- Is a slot of a core one of a domain's: named by its region's TSLOTS, on a core of its set (R60, R237)? -/
def slotInDomain (s : State) (root : BitVec 16) (n k : Nat) : Bool :=
  match s.region root with | some r => r.tslots.getLsbD k && r.cores.contains n | none => false

/-- The conditions of mode 2 (R237): the destination core. -/
def mode2Core (s : State) (t : Thread) (n : Nat) (w : Word) : Option Nat :=
  match messageCore s t.task.rid w, s.domain t.task.rid with
  | some m, some d =>
    if !w.getLsbD 44 && dieOf m = dieOf n && slotInDomain s d.root m (ctlSlot w).toNat then some m else none
  | _, _ => none

/-- The ILLEGAL and PRIV of a SEND that come from its control word (R237, R390). -/
def sendIll (s : State) (t : Thread) (n : Nat) (i : Instr) (w : Word) : Option (BitVec 16 × Word) :=
  match (w.extractLsb' 62 2).toNat with
  | 0 => if messageBad s w then some (cILLEGAL, w) else none
  | 1 => if putBad w then some (cILLEGAL, w) else none
  | m =>
    if messageBad s w then some (cILLEGAL, w)
    else if !t.timed then some (cPRIV, wordOf i)
    else if m = 2 then (if (mode2Core s t n w).isNone then some (cILLEGAL, w) else none)
    else if !w.getLsbD 44 then some (cILLEGAL, w) else none

/-- Can link LSEL carry a mode-3 message to a peer (R75, R248, R319)? -/
def mode3Ok (s : State) (t : Thread) (w : Word) : Bool :=
  let p : Word := assocGet s.bar.peers (w.extractLsb' 32 12).toNat 0
  match s.links[t.ctl.lsel.toNat]? with
  | some l => p.getLsbD 63 && l.stat.getLsbD 1 && l.stat.getLsbD 2 && l.stat.extractLsb' 32 14 = p.extractLsb' 0 14
  | none => false

/-- Entry t mod p of a table (R246). -/
def tableEntryAt (l : List Word) (t : Nat) : Word := l.getD (t % l.length) 0

/-- The first tick after `now` at which a table read now takes effect (R245). -/
def effectTick (now : Nat) (l : List Word) : Nat := (now / l.length + 1) * l.length

/-- The entry that a router uses at a later tick: that of the table in force then, of those read so far. A SEND's grant rests on it, and a
table read after the SEND may still change what the router does at that tick (R245 to R247; DESIGN CHOICE, unsafe: the rules do
not speak of a table read in between; log entry 74). -/
def entryFor (r : Router) (now t : Nat) : Word :=
  let best := r.next.foldl (fun (acc : Nat × List Word) e =>
    let k := effectTick now e.1
    if k ≤ t && acc.1 ≤ k then (k, e.1) else acc) (0, r.table)
  tableEntryAt best.2 t

/-- The code that an entry gives an output: 0 north, 1 east, 2 south, 3 west, 4 local (R246). -/
def outCode (e : Word) (o : Nat) : Nat := (e.toNat / 2 ^ (3 * o)) % 8

/-- The output that takes an input code. -/
def outputFor (e : Word) (code : Nat) : Option Nat := (List.range 5).find? (fun o => outCode e o = code)

/-- Does a router let slot k inject at a tick (R247)? -/
def grants (r : Router) (root : BitVec 16) (now t k : Nat) : Bool :=
  let e := entryFor r now t
  r.dom = some root && (outputFor e 5).isSome && (e.extractLsb' 15 3).toNat = k

/-- A SEND of mode 2 departs: TIMING with X = 1 where its injection is not granted (R247). -/
def departMode2 (s : State) (t : Thread) (root : BitVec 16) (now dst : Nat) (w : Word) (v : Vec) (h : EHead) : State :=
  let n := s.cur.core
  if grants s.ccore.net.router root now (now + 4) s.cur.slot then
    { s with snet := s.snet ++ [⟨root, n, 5, dst, ctlSlot w, h, now + 4, false, v⟩] }
  else
    (detectFatal (recordThread s n s.cur.slot 0x18 1 t t.ctl.pc) n s.cur.slot cTIMING sylE 0).setIssue .trapped

/-- The tenant of a region. -/
def tenantOf (s : State) (rid : BitVec 16) : BitVec 16 := match s.region rid with | some r => r.tenant | none => 0

/-- A packet of an E instruction. -/
def jobPacket (s : State) (n : Nat) (h : EHead) (dst : Nat) (peer : Option (BitVec 12)) (strm : Nat) (val : Word) (c : Cargo)
    (id : Nat) : Packet :=
  { id := id, src := n, tenant := tenantOf s h.rid, dst := dst, peer := peer, link := none
    svcn := match s.region h.rid with | some r => BitVec.ofNat 16 (vcnOf r n) | none => 0
    pkg := none, strm := strm, val := val, head := h,
    entry := none, landed := false, held := none, heldFor := none, due := none, cargo := c }

/-- A SEND of mode 3 departs on link LSEL, with the region that DRID names (R237, R248). -/
def departMode3 (s : State) (t : Thread) (w : Word) (v : Vec) (h : EHead) : State :=
  let s := s.emit (.toPeer t.ctl.lsel.toNat (ctlRegion w t.task.rid) (w.extractLsb' 0 16) (ctlSlot w) v)
  let (id, s) := s.newId
  { s with net := s.net ++ [{ jobPacket s s.cur.core h 0 (some (w.extractLsb' 32 12)) 0 w .sched id with link := some t.ctl.lsel.toNat }] }

/-- The traps of a SEND behind its control word: a put's address, or the TIMING of modes 2 and 3 (R237, R390). -/
def sendTrap (s : State) (t : Thread) (w : Word) (ready : Bool) : Option (BitVec 16 × Word) :=
  match (w.extractLsb' 62 2).toNat with
  | 0 => none
  | 1 =>
    match spotG s t s.cur.core s.cur.slot ⟨64, 64, true, .tenant, none, none⟩ (putAddr w) with
    | .core _ _ _ => none
    | _ => some (cPRIV, putAddr w)
  | 2 => if ready then none else some (cTIMING, 0)
  | _ => if ready && mode3Ok s t w then none else some (cTIMING, 0)

/-- The effect of a SEND: modes 2 and 3 depart at issue, the others after their release (R237). -/
def startSend (s : State) (t : Thread) (w : Word) (v : Vec) (h : EHead) : State :=
  match (w.extractLsb' 62 2).toNat with
  | 2 =>
    match mode2Core s t s.cur.core w, s.domain t.task.rid with
    | some m, some d => departMode2 s t d.root d.ticks m w v h
    | _, _ => s
  | 3 => departMode3 s t w v h
  | _ => addJob s h (.send v w)

/-- SEND: its control word is checked before its payload's port (R251, R389, R390). -/
def execSend (a : Reg) (b : BitVec 4) (k : Toks) (s : State) : Result :=
  .next (match s.cth with
    | none => s
    | some t =>
      let n := s.cur.core
      let i : Instr := .send a b k
      let w := t.regs.getX (b.setWidth 5)
      match sendIll s t n i w with
      | some (c, v) => trapCur s c sylE v
      | none =>
        withSource s a (fun t v =>
          let h := mkHead s t k (wordOf i)
          let shut := match (w.extractLsb' 62 2).toNat, sendRoute s t.task.rid w with
            | 2, _ => false | 3, _ => false
            | _, some (m, peer) => !windowOpen s n m peer
            | _, none => false
          eSyllable s t k (wordOf i) none shut (sendTrap s t w (headReady s n h))
            (fun h s => startSend (popAll s [a]) t w v h)))

/-! ### SNLD and SPAWN -/

/-- The traps of SNLD (R245, R394). -/
def snldTrap (s : State) (t : Thread) (i : Instr) (a : Word) : Option (BitVec 16 × Word) :=
  if !t.timed then some (cPRIV, wordOf i)
  else if a.toNat % 64 ≠ 0 then some (cALIGN, a)
  else if classOf a ≠ .l || !tailOk t s.cur.slot true a.toNat 8 then some (cPRIV, a)
  else
    match s.ccore.net.router.dom, s.domain t.task.rid with
    | some root, some d => if root = d.root then none else some (cPRIV, wordOf i)
    | _, _ => none

/-- SNLD: the router is bound to the thread's domain, and its table is read once R218 allows (R245, R394). -/
def execSnld (a : Reg) (k : Toks) (s : State) : Result :=
  .next (match s.cth with
    | none => s
    | some t =>
      let x := t.regs.getX a
      eSyllable s t k (wordOf (.snld a k)) none false (snldTrap s t (.snld a k) x) (fun h s =>
        let s := match s.domain t.task.rid with
          | some d => s.modNet s.cur.core (fun e => { e with router := { e.router with dom := some d.root } })
          | none => s
        addJob s h (.snld x.toNat (wordOf (.snld a k)))))

/-- SPAWN (R249, R395, R396). -/
def execSpawn (a : Reg) (k : Toks) (s : State) : Result :=
  .next (withSource s a (fun t v =>
    let n := s.cur.core
    let rec' := parseTrec v
    let d := match s.region (rec'.target t.task.rid) with | some r => recordDieOf r rec' (some n) | none => dieOf n
    let busy := dispatchFull s d || (d ≠ dieOf n && !windowOpen s n (dispatchEnd d) none)
    eSyllable s t k (wordOf (.spawn a k)) (spawnCheck s t.task.rid n rec') busy none
      (fun h s => addJob (popAll s [a]) h (.spawn (BitVec.ofNat 2 d) v))))

end Sys2Proof.Machine
end

