-- ==== Sys2Proof/Machine/Network.lean ====
section
/-! DEFINITION. What happens to an access after its issue: the order queue's steps, atomics at their location, the window
network's arrivals and acknowledgements, QNO, the inbox and the Attic (R184 to R186, R205 to R210, R228 to R244, R299,
R330, R385). -/

namespace Sys2Proof.Machine

/-! ### The order queue -/

/-- The threads of a core, those that ended among them. -/
def coreThreads (c : Core) : List Thread := c.slots.toList.filterMap (fun t => t) ++ c.ended

/-- The order-queue entry of a core with an identity, and its thread. -/
def entryOf (s : State) (n id : Nat) : Option (Thread × QEntry) :=
  (coreThreads (s.core n)).findSome? (fun t => (t.orderQ.find? (fun e => e.id = id)).map (fun e => (t, e)))

/-- May an entry of a thread's queue take its step: nothing before it blocks it, it is neither on its way nor performed, and the
puts before a release are acknowledged (R206 to R210)? -/
def mayPerform (s : State) (t : Thread) (e : QEntry) : Bool :=
  !e.sent && !e.perf && unblocked t.orderQ e.id && (!e.rel || putsDone s t.tid e.id)

/-- The entry with an identity, when it may take its step. -/
def readyEntry (s : State) (n id : Nat) : Option (Thread × QEntry) :=
  match entryOf s n id with
  | some (t, e) => if mayPerform s t e then some (t, e) else none
  | none => none

/-- The slot of a thread on a core, or of one that ended there the slot it left (R270, R273). -/
def slotFor (s : State) (n tid : Nat) : Nat :=
  ((s.slotOf n tid).or (((s.core n).ended.find? (fun t => t.tid = tid)).map (fun t => t.life.left))).getD 0

/-- Mark an entry as on its way. -/
def markSent (s : State) (n tid id : Nat) : State :=
  s.modOwner n tid (fun t => { t with orderQ := t.orderQ.map (fun e => if e.id = id then { e with sent := true } else e) })

/-- A remote access departs, when its send window is open (R184, R239). -/
def departEntry (s : State) (n : Nat) (t : Thread) (e : QEntry) (c : Cargo) (dst : Nat) (peer : Option (BitVec 12))
    (va : Word) : State :=
  let p := entryPacket s n t (slotFor s n t.tid) e c dst peer va
  if windowed (p 0) && !windowOpen s n dst peer then s else sendPacket (markSent s n t.tid e.id) p

/-- An entry that may take its step takes it with `f`. -/
def performEntry (s : State) (n id : Nat) (f : Thread → QEntry → State) : State :=
  match readyEntry s n id with
  | none => s
  | some (t, e) => f t e

/-- ORDER_QUEUE_PERFORM: a store or a load of class M is performed; an access of class G departs (R204, R210). -/
def execOrderQueuePerform (core _slot id : Nat) (s : State) : Result :=
  .next (performEntry s core id (fun t e =>
      match e.kind with
      | .storeM l va => markPerformed (markPage (storeM s core l) t.task.rid va) core t.tid id false
      | .loadM m => markPerformed (performLoad s core m) core t.tid id true
      | .remote c dst peer va => departEntry s core t e c dst peer va
      | _ => s))

/-! ### Sequence counters (R30 to R32, R43, R385) -/

/-- A counter after an addition: bits [62:0] saturate, and the poison bit stays (R30, R385). -/
def counterSum (c amount : Nat) : Nat := c / 2 ^ 63 * 2 ^ 63 + min (c % 2 ^ 63 + amount) (2 ^ 63 - 1)

/-- The page of an address as the watchers of a die see it: their die's translations (R31, R187). -/
def watchSpot (s : State) (d : BitVec 2) (pasid : BitVec 20) (va : Word) : Option TlbEntry :=
  (s.die d).tlb.find? (fun e => covers e.t pasid va.toNat)

/-- Does a waiting record name the counter at a key: it is registered there, or a translation that the device holds puts one of
its counters there (R32, R195)? -/
def namesCounter (s : State) (e : Entry) (key : Nat) : Bool :=
  e.named.contains key || (parseTrec e.trec).used.any (fun p =>
    let va := counterAddr s e.rid (BitVec.ofNat 64 p.1)
    s.known.any (fun x => covers x (pasidOf s e.rid) va.toNat && xlateKey x va.toNat = key))

/-- The clocks within which a watcher of a die sees a change of a counter (R32). -/
def watchBound (d : BitVec 2) (key : Nat) : Nat := if homeSlice key / 8 = d.toNat then 24 else 64

/-- Evaluate one waiting record within a bound (R32; log entry 5). -/
def scheduleReady (s : State) (d : BitVec 2) (id bound : Nat) : State :=
  let s := s.tickFresh
  s.schedule (s.sched.clock + 1 + Config.delay s.sched.fresh % bound) (.taskReady d id)

/-- The watchers evaluate every waiting record that names the counter at a key (R32). -/
def wakeWaiters (s : State) (key : Nat) : State :=
  [(0 : BitVec 2), 1, 2, 3].foldl (fun s d =>
    ((s.die d).disp.filter (fun e => e.ready.isNone && e.saved.isNone && namesCounter s e key)).foldl
      (fun s e => scheduleReady s d e.id (watchBound d key)) s) s

/-- The end of a SEQADD that is not performed: region-fatal ENGINE for that of an EXITC, whose TRAPV is zero, and otherwise ECC for
the region whose pool holds the line (R43, R250, R266). -/
def failCounter (s : State) (n : Nat) (t : Thread) (id key : Nat) (exit : Bool) : State :=
  let s := markPerformed s n t.tid id false
  let slot := slotFor s n t.tid
  if exit then fatalFor s n slot t.task.rid cENGINE sylC t.ctl.pc (s.domtick t) 0
  else (poolError s n slot key).getD
    (fatalFor s n slot t.task.rid cECC sylC t.ctl.pc (s.domtick t) (eccValue 1 (BitVec.ofNat 64 (physOf (lineOf key)))))

/-- The record of a SEQADD, when it is performed: its counter by the address, its slot that of the thread (R270, R274, R283). -/
def recordSeqadd (s : State) (n : Nat) (t : Thread) (va amount : Word) : State :=
  let idx := (va - (match s.region t.task.rid with | some r => r.pool | none => 0)).toNat / 8
  recordCore s n 0x19 (slotFor s n t.tid) (s.tagOf t.task.rid)
    (BitVec.ofNat 82 (idx * 2 ^ 62 + min amount.toNat 0x3FFFFFFF * 2 ^ 32 + s.domtick t % 2 ^ 32)) none (some t.tid)

/-- A SEQADD at its counter, with its record and its soft errors (R43, R266, R267, R274, R385). -/
def addCounter (s : State) (n : Nat) (t : Thread) (id key : Nat) (va amount : Word) (exit : Bool) : State :=
  let s := (detectError s (.core n) (slotFor s n t.tid) (some t.tid) key 8).2
  let c := Memory.readLE s.mem key 8
  if poisoned s key then failCounter s n t id key exit
  else
    let s := recordSeqadd s n t va amount
    let s := markPage (storeM s n (plainBytes key (leBytes (counterSum c amount.toNat) 8))) t.task.rid va
    wakeWaiters (notifyCounter (markPerformed s n t.tid id false) key) key

/-- SEQADD_PERFORM: the addition at the home slice. That of an EXITC resolves its page now; where the page has no permission it fails
at once, with no page request (DESIGN CHOICE, unsafe: R43 says only that the page 'cannot be translated'; log entry 19). -/
def execSeqaddPerform (core _slot id : Nat) (s : State) : Result :=
  .next (performEntry s core id (fun t e =>
      match e.kind with
      | .seqadd (some key) va amount => addCounter s core t id key va amount false
      | .seqadd none va amount =>
        match spotM s core (pasidOf s t.task.rid) .rw none va with
        | .gen key => addCounter s core t id key va amount true
        | .walk => askXlate s core (pasidOf s t.task.rid) va.toNat
        | .fault =>
          let s := recordCore s core 0x11 (slotFor s core t.tid) (s.tagOf t.task.rid) (faultForm va false true (s.domtick t)) none (some t.tid)
          failCounter s core t id 0 true
        | _ => failCounter s core t id 0 true
      | _ => s))

/-! ### Packets at their destination (R185, R244) -/

/-- Is a region placed, for packets that reach it? One being evicted still takes its own packets, since its threads leave
only when their accesses are performed (R223, R263). -/
def takesPackets (r : Region) (sender : BitVec 16) : Bool :=
  match r.phase with
  | .live => true | .parking => true | .ending => r.closing.isNone
  | .evicting => sender = r.rid
  | _ => false

/-- Is a region switched out (R244, R262, R263)? -/
def switchedOut (r : Region) : Bool :=
  match r.phase with | .parked => true | .evicting => true | .evicted => true | .restoring => true | _ => false

/-- What a destination does with a packet: takes it, discards it with a cause, or holds it for a region, if any. -/
inductive Admit
  | take
  | discard (cause : BitVec 16)
  | wait (rid : Option (BitVec 16))
  deriving DecidableEq, Repr

/-- The admission of a packet that names a core (R185, R244). -/
def admitCore (s : State) (p : Packet) : Admit :=
  let here := s.regions.filter (fun r => r.tenant = p.tenant && r.cores.contains p.dst)
  if p.held.isSome then
    if here.any (fun r => some r.rid = p.heldFor && takesPackets r p.head.rid) then .take else .wait p.heldFor
  else if here.any (fun r => takesPackets r p.head.rid) then .take
  else .wait ((here.find? switchedOut).map (fun r => r.rid))

/-- The admission of a window message (R244, R262, R298). -/
def admitMessage (s : State) (p : Packet) (drid dvcn : BitVec 16) : Admit :=
  match s.region drid with
  | none => .discard cABSENT
  | some r =>
    if r.tenant ≠ p.tenant || r.phase = .parked || (coreOfVcn r dvcn.toNat).isNone then .discard cABSENT
    else if r.det then .discard cILLEGAL
    else if takesPackets r p.head.rid then .take else .wait (some drid)

/-- The admission of a packet; a record, and a packet to another package, are no matter of these rules. -/
def admitOf (s : State) (p : Packet) : Admit :=
  match p.cargo with
  | .msg drid dvcn _ _ _ _ => admitMessage s p drid dvcn
  | .record _ _ => .wait none
  | .sched => .wait none
  | _ => if p.peer.isSome then .wait none else admitCore s p

/-- Is a packet a window message? -/
def isMessage (p : Packet) : Bool := match p.cargo with | .msg .. => true | _ => false

/-- Must packet `a` reach their destination before packet `b`, sent later (R228, R239)? -/
def sameLane (a b : Packet) : Bool :=
  a.src = b.src && a.dst = b.dst && a.peer = b.peer && windowed a && windowed b && !a.landed &&
    (if isMessage b then isMessage a else !isMessage a && a.strm = b.strm)

/-- Is a packet the oldest of its lane that has not landed? -/
def firstOfLane (s : State) (p : Packet) : Bool := (s.net.takeWhile (fun q => q.id ≠ p.id)).all (fun q => !sameLane q p)

/-- The packet with an identity that has not landed and may reach its destination in this package. -/
def arriving (s : State) (id : Nat) : Option Packet :=
  match s.net.find? (fun p => p.id = id) with
  | some p => if !p.landed && p.peer.isNone && firstOfLane s p then some p else none
  | none => none

/-- Change a packet. -/
def modPacket (s : State) (id : Nat) (f : Packet → Packet) : State :=
  { s with net := s.net.map (fun p => if p.id = id then f p else p) }

/-- Remove a packet. -/
def dropPacket (s : State) (id : Nat) : State := { s with net := s.net.filter (fun p => p.id ≠ id) }

/-- A packet of another package has landed, or is refused: its answer leaves (R186, R244). -/
def answerPeer (s : State) (id : Nat) (refused : Option (BitVec 16)) : State :=
  match s.inbound.find? (fun p => p.id = id) with
  | some p => sendAnswer { s with inbound := s.inbound.filter (fun q => q.id ≠ id) } p refused
  | none => s

/-- A packet has landed and waits for its acknowledgement. -/
def setLanded (s : State) (id : Nat) : State := modPacket s id (fun p => { p with landed := true, held := none })

/-- The first refusal of a packet sets the GTIME of its discard, 100 µs later (R244). -/
def holdPacket (s : State) (p : Packet) (rid : Option (BitVec 16)) : State :=
  if p.held.isSome then s
  else modPacket s p.id (fun p => { p with held := some (s.gtime + Config.absentHold), heldFor := rid })

/-- What the end of a discarded packet leaves to its sender: a queue entry that leaves, a token, and the report
(R229, R244). -/
def refusePacket (s : State) (p : Packet) (cause : BitVec 16) : State :=
  let s := dropPacket s p.id
  match p.entry with
  | some e => engineReport (markPerformed s p.src p.head.tid e false) p.src p.head cause p.val
  | none => finishE (engineReport s p.src p.head cause p.val) p.head true

/-- A packet at its destination: taken with `f`, discarded, or held. -/
def atDestination (s : State) (id : Nat) (f : Packet → State) : State :=
  match arriving s id with
  | none => s
  | some p =>
    match admitOf s p with
    | .take => f p
    | .discard c => refusePacket s p c
    | .wait rid => holdPacket s p rid

/-- REMOTE_STORE_LANDING: a store of class G lands (R184, R185). -/
def execRemoteStoreLanding (id : Nat) (s : State) : Result :=
  .next (atDestination s id (fun p =>
    match p.cargo with
    | .store l => setLanded (storeRaw s (l.map (fun b => (keyL p.dst b.1, b.2)))) id
    | _ => s))

/-- REMOTE_LOAD_SERVE: a load of class G reads its data at the destination bank (R183, R204). -/
def execRemoteLoadServe (id : Nat) (s : State) : Result :=
  .next (atDestination s id (fun p =>
    match p.cargo, p.entry with
    | .load off n _ m, some e =>
      let s := noteRead s (.core p.dst) (p.head.slot % 8) (some p.head.tid) (keyL p.dst off) n
      let bytes := Memory.readBytes s.mem (keyL p.dst off) n
      let s := modMiss s p.src m (fun m => { m with data := some (missValue m bytes 0) })
      dropPacket (markPerformed s p.src p.head.tid e true) id
    | _, _ => s))

/-- BARRIER_ARRIVAL: an arrival of class G (R230, R231). -/
def execBarrierArrival (id : Nat) (s : State) : Result :=
  .next (atDestination s id (fun p =>
    match p.cargo with
    | .arrive off => setLanded (arriveAt s p.dst off (p.head.slot % 8) (some p.head.tid)) id
    | _ => s))

/-- PUT_LANDING: 64 bytes and the mailbox count (R232, R237). -/
def execPutLanding (id : Nat) (s : State) : Result :=
  .next (atDestination s id (fun p =>
    match p.cargo with
    | .put off v tag =>
      let s := setLanded (storeRaw s (plainBytes (keyL p.dst off) (leBytes v.toNat 64))) id
      match tag with | some mb => addMailbox s p.dst mb | none => s
    | _ => s))

/-! ### Atomics at their location (R191, R299, R330, R410) -/

/-- The clock of a location: a core's, or that of a home slice (R299). -/
def locClock (s : State) (loc : Nat) : Nat := if loc < 3072 then s.coreClock loc else s.sched.clock

/-- The deferred atomic of a load waits at its location from now on; none where the atomic is not deferred. -/
def deferArrives (s : State) (core miss : Nat) : Option State :=
  if s.deferred.any (fun d => d.core = core && d.miss = miss && d.arrived.isNone) then
    some { s with deferred := s.deferred.map (fun d =>
      if d.core = core && d.miss = miss then { d with arrived := some (locClock s d.loc) } else d) }
  else none

/-- A thread meets an uncorrectable error in a line of class M: SOFT, or a region-fatal fault for a counter pool (R266). -/
def softError (s : State) (n slot : Nat) (own : Option Nat) (key : Nat) : State :=
  match poolError s n slot key, own with
  | some s, _ => s
  | none, some tid => s.modTid n tid (fun t => { t with reports := t.reports ++ [.soft (BitVec.ofNat 64 (physOf (lineOf key)))] })
  | none, none => s

/-- One atomic of thread `own` of core `src` executes; a returning one leaves its old value for the landing. `n` is the core at which
a scratchpad word is read. An atomic of class M registers ownership for its core; one that meets a poisoned line gives zero and writes
nothing (R217, R266, R330; log entry 25). -/
def runAtomic (s : State) (n src slot : Nat) (own : Option Nat) (op : Aop) (wide : Bool) (key : Nat) (opnd swap : Word)
    (miss : Option Nat) : State :=
  let s := noteRead s (.core n) slot own key (atomBytes wide)
  let answer (s : State) (f : Miss → Miss) : State := match miss with | some m => modMiss s src m f | none => s
  if poisoned s key then
    match miss with
    | some _ => answer ((poolError s src slot key).getD s) (fun m => { m with data := some 0, soft := some (lineOf key) })
    | none => softError s src slot own key
  else
    let (old, l) := atomAct s op wide key opnd swap
    let s := if isStack key || isHost key then storeM s src l else storeRaw s l
    answer s (fun m => { m with data := some (BitVec.ofNat 512 old) })

/-- The lanes of a VATOM, one atomic each, in ascending lane order (R410). -/
def runLanes (s : State) (n src slot : Nat) (own : Option Nat) (op : Aop) (l : List (Nat × BitVec 32)) : State :=
  l.foldl (fun s e => runAtomic s n src slot own op false e.1 (e.2.setWidth 64) 0 none) s

/-- An atomic of a queue entry on class M: deferred, or executed and performed (R191, R299). -/
def atomicEntry (s : State) (core : Nat) (t : Thread) (e : QEntry) : State :=
  match e.kind with
  | .atomM op wide key opnd swap miss va =>
    let s := markPage s t.task.rid va
    let slot := slotFor s core t.tid
    match miss with
    | some m =>
      match deferArrives s core m with
      | some s' => markSent s' core t.tid e.id
      | none => markPerformed (runAtomic s core core slot (some t.tid) op wide key opnd swap miss) core t.tid e.id true
    | none => markPerformed (runAtomic s core core slot (some t.tid) op wide key opnd swap none) core t.tid e.id false
  | .vatomM op l vas =>
    let s := runLanes s core core (slotFor s core t.tid) (some t.tid) op l
    markPerformed (vas.foldl (fun s va => markPage s t.task.rid va) s) core t.tid e.id false
  | _ => s

/-- An atomic packet at its destination bank. -/
def atomicPacket (s : State) (p : Packet) : State :=
  let slot := p.head.slot % 8
  let own := some p.head.tid
  match p.cargo, p.entry with
  | .atomic op wide off opnd swap miss, some e =>
    match miss with
    | some m =>
      match deferArrives s p.src m with
      | some s' => dropPacket s' p.id
      | none => dropPacket (markPerformed (runAtomic s p.dst p.src slot own op wide (keyL p.dst off) opnd swap miss) p.src p.head.tid e true) p.id
    | none => dropPacket (markPerformed (runAtomic s p.dst p.src slot own op wide (keyL p.dst off) opnd swap none) p.src p.head.tid e false) p.id
  | .vatom op l, _ => setLanded (runLanes s p.dst p.src slot own op (l.map (fun e => (keyL p.dst e.1, e.2)))) p.id
  | _, _ => s

/-- ATOMIC_EXECUTE: at the home slice or the host for a queue entry of class M; at the destination bank for the packet of a
class-G entry (R330, R331). -/
def execAtomicExecute (core _slot id : Nat) (s : State) : Result :=
  .next (match s.net.find? (fun p => p.src = core && p.entry = some id) with
    | some p => atDestination s p.id (fun p => atomicPacket s p)
    | none => performEntry s core id (fun t e => atomicEntry s core t e))

/-- Insert a deferred atomic by its key. Equal keys, of different regions' tasks, keep the order in which they were deferred (R299;
DESIGN CHOICE, unsafe: R299 orders by the key alone; log entry 70). -/
def insertDeferred (x : Deferred) (l : List Deferred) : List Deferred :=
  match l with
  | [] => [x]
  | y :: r => if x.l < y.l || (x.l = y.l && x.q < y.q) then x :: y :: r else y :: insertDeferred x r

/-- The batch of a doubleword whose interval has ended, in ascending key: atomics of both widths on it share a word (R299). -/
def batchOf (s : State) (key : Nat) : List Deferred :=
  (s.deferred.filter (fun d => d.key / 8 = key / 8 &&
    (match d.arrived with | some c => c / 1024 < locClock s d.loc / 1024 | none => false))).foldl
    (fun l d => insertDeferred d l) []

/-- One atomic of a batch: its value lands within 64 clocks of the interval's end (R299; log entry 5). -/
def runDeferred (s : State) (d : Deferred) : State :=
  let n := if d.loc < 3072 then d.loc else d.core
  let own := (entryOf s d.core d.miss).map (fun e => e.1.tid)
  let slot := match own with | some tid => slotFor s d.core tid | none => 0
  let s := runAtomic s n d.core slot own d.op d.wide d.key d.opnd d.swap (some d.miss)
  let s := match own with | some tid => markPerformed s d.core tid d.miss true | none => s
  let s := s.tickFresh
  let stop := s.sched.clock / 1024 * 1024 + 63
  s.schedule (s.sched.clock + Config.delay s.sched.fresh % (stop - s.sched.clock + 1)) (.loadLanding d.core d.miss)

/-- DET_ATOMIC_BATCH (R299). -/
def execDetAtomicBatch (key : Nat) (s : State) : Result :=
  .next (let l := batchOf s key
    l.foldl runDeferred { s with deferred := s.deferred.filter (fun d => !l.contains d) })

/-- LOAD_LANDING: a load that has its data, and counts no turns, lands behind the results issued before it (R83). -/
def execLoadLanding (core id : Nat) (s : State) : Result :=
  .next (match (s.core core).net.misses.find? (fun m => m.id = id) with
    | some m =>
      if m.data.isSome && m.turns.isNone &&
          !((s.ownerThread core m.tid).any (fun t => behindFlight t m)) then landMiss s core m else s
    | none => s)

/-! ### Acknowledgements (R186, R229, R239, R240) -/

/-- ACK_RETURN: the window place frees, the delay is added, and the access or the token is done. Packets to
another package are acknowledged from outside, once they left on a link (R317, R319). -/
def execAckReturn (id : Nat) (s : State) : Result :=
  .next (match s.net.find? (fun p => p.id = id) with
    | none => s
    | some p =>
      if !p.landed && (p.peer.isNone || p.link.isNone) then s
      else
        let s := dropPacket s id
        let s := match p.cargo, latOfRoute p.src (if 3072 ≤ p.dst then (p.dst - 3072) % 4 * 768 else p.dst) p.peer with
          | .sched, _ => s
          | _, some i => addLatency s p.src i
          | _, none => s
        match p.cargo, p.entry with
        | .chunk .., _ => s
        | .record _ _, _ => s
        | _, some e => markPerformed s p.src p.head.tid e false
        | _, none => finishE s p.head false)

/-! ### QNO (R238, R298) -/

/-- The source word of a QNO message (R238). -/
def sourceWord (s : State) (n k : Nat) (t : Thread) : Word :=
  let vcn := match s.region t.task.rid with | some r => vcnOf r n | none => 0
  BitVec.ofNat 64 (vcn % 2 ^ 16 + t.task.rid.toNat * 2 ^ 16 + k % 8 * 2 ^ 48)

/-- Replace bytes 0 to 7. -/
def withWord0 (v : Vec) (w : Word) : Vec := (v >>> 64 <<< 64) ||| w.setWidth 512

/-- The header of a QNO message. -/
def qnoHead (t : Thread) (k id : Nat) : EHead :=
  ⟨id, t.tid, t.task.rid, k, t.ctl.pc, 0, [], false, 0, 0, t.timed, t.mode = 0, none, 0⟩

/-- The cargo of a message under a control word. -/
def messageCargo (rid : BitVec 16) (w : Word) (v : Vec) (qno : Bool) : Cargo :=
  .msg (ctlRegion w rid) (w.extractLsb' 0 16) (ctlSlot w) v w qno

/-- QNO_DEPARTURE: the oldest entry leaves once it holds its value: a bad control word discards it with ILLEGAL, a
destination that is no core with DEST_ABSENT (R238, R244). -/
def execQnoDeparture (core slot : Nat) (s : State) : Result :=
  .next (match s.thread core slot with
    | none => s
    | some t =>
      match t.qno with
      | [] => s
      | e :: r =>
        match e.val with
        | none => s
        | some v =>
          let w : Word := v.setWidth 64
          let gone : State := s.setThread core slot (some { t with qno := r })
          let (id, gone) := gone.newId
          let h := qnoHead t slot id
          if w.extractLsb' 62 2 ≠ 0 || messageBad s w then engineReport gone core h cILLEGAL w
          else
            match sendRoute s t.task.rid w with
            | none => engineReport gone core h cABSENT w
            | some (dst, peer) =>
              if !windowOpen s core dst peer then s
              else
                sendPacket gone (jobPacket s core h dst peer 0 w
                  (messageCargo t.task.rid w (withWord0 v (sourceWord s core slot t)) true)))

/-! ### The inbox and the Attic (R241 to R243) -/

/-- Has a core a slot in a timed domain (R241)? -/
def timedCore (s : State) (n : Nat) : Bool := s.regions.any (fun r => r.timed && r.tslots ≠ 0 && r.cores.contains n)

/-- Deliveries of the scheduled network that wait to be readable on a core. -/
def pendingSnet (s : State) (n : Nat) : Nat := (s.snet.filter (fun p => p.out && p.dst = n)).length

/-- May a window message enter the inbox, the heap apart (R241)? -/
def inboxOpen (s : State) (n : Nat) : Bool :=
  (s.core n).net.inbox.length + pendingSnet s n < (if timedCore s n then 48 else Config.inbox)

/-- The message of a packet as it stands in an inbox. -/
def packetMessage (p : Packet) (dslot : BitVec 3) (v : Vec) : Msg :=
  ⟨dslot, p.svcn, p.head.rid, v⟩

/-- MESSAGE_ARRIVAL: into the inbox, or the landing buffer while one that came before waits or the inbox is full; refused
while that is full (R241 to R243). -/
def execMessageArrival (id : Nat) (s : State) : Result :=
  .next (atDestination s id (fun p =>
    match p.cargo with
    | .msg drid dvcn dslot v _ _ =>
      match (s.region drid).bind (fun r => coreOfVcn r dvcn.toNat) with
      | none => s
      | some m =>
        let e := (s.core m).net
        let msg := packetMessage p dslot v
        if e.landing.any (fun x => x.1 = id) then s
        else if e.heap.isEmpty && e.landing.isEmpty && inboxOpen s m then
          setLanded (s.modNet m (fun e => { e with inbox := e.inbox ++ [msg] })) id
        else if e.landing.length < Config.landingBuffer then
          s.modNet m (fun e => { e with landing := e.landing ++ [(id, msg)] })
        else s
    | _ => s))

/-- An ATTIC record (R274). -/
def atticRecord (s : State) (n : Nat) (m : Msg) (depth : Nat) (replay : Bool) : State :=
  recordCore s n 0x13 m.slot.toNat (s.tagOf m.srid)
    (BitVec.ofNat 82 (m.svcn.toNat * 2 ^ 66 + m.srid.toNat * 2 ^ 50 + depth % 64 * 2 ^ 44 + (if replay then 2 ^ 43 else 0))) none none

/-- The key of a place of the Attic heap on a core (R242). -/
def heapKey (n place : Nat) : Nat := keyL n (0x7F040 + 64 * place)

/-- ATTIC_SPILL: the oldest message of the landing buffer enters the heap, which acknowledges it: the message that enters as number i,
from 0, takes place i mod 63 (R242; DESIGN CHOICE, unsafe: R242 names the 63 places and no choice among them; log entry 16). -/
def execAtticSpill (core : Nat) (s : State) : Result :=
  .next (match (s.core core).net.landing with
    | [] => s
    | (id, m) :: r =>
      let e := (s.core core).net
      if Config.atticHeap ≤ e.heap.length then s
      else
        let place := e.spills % Config.atticHeap
        let s := storeRaw s (plainBytes (heapKey core place) (leBytes m.data.toNat 64))
        let s := s.modNet core (fun e => { e with landing := r, heap := e.heap ++ [(place, m)], spills := e.spills + 1 })
        atticRecord (answerPeer (setLanded s id) id none) core m (e.heap.length + 1) false)

/-- ATTIC_REPLAY: the oldest message of the heap enters the inbox, with the bytes of its place (R242). -/
def execAtticReplay (core : Nat) (s : State) : Result :=
  .next (match (s.core core).net.heap with
    | [] => s
    | (place, m) :: r =>
      if inboxOpen s core then
        let s := noteRead s (.core core) 7 none (heapKey core place) 64
        let v : Vec := BitVec.ofNat 512 (Memory.readLE s.mem (heapKey core place) 64)
        atticRecord (s.modNet core (fun e => { e with heap := r, replay := none, inbox := e.inbox ++ [{ m with data := v }] })) core m
          r.length true
      else s)

/-- Could the oldest message of a core's heap enter its inbox? The clock since which it could is kept (R242). -/
def noteReplay (s : State) (n : Nat) : State :=
  let e := (s.core n).net
  if e.heap.isEmpty then s
  else if inboxOpen s n then (if e.replay.isSome then s else s.modNet n (fun e => { e with replay := some s.sched.clock }))
  else if e.replay.isSome then s.modNet n (fun e => { e with replay := none }) else s

/-- Is the replay of a core due: three of slot 7's turns have passed since it could be made (R242)? -/
def replayDue (s : State) (n : Nat) : Bool :=
  match (s.core n).net.replay with | some c => c + 24 ≤ s.sched.clock | none => false

/-! ### What may happen to the queues and packets in a clock -/

/-- The steps that order-queue entries of a core may take. -/
def queueEvents (s : State) (n : Nat) : List Event :=
  ((coreThreads (s.core n)).map (fun t =>
    (t.orderQ.filter (mayPerform s t)).filterMap (fun e =>
      match e.kind with
      | .storeM .. => some (.orderQueuePerform n (slotFor s n t.tid) e.id)
      | .loadM _ => some (.orderQueuePerform n (slotFor s n t.tid) e.id)
      | .remote .. => some (.orderQueuePerform n (slotFor s n t.tid) e.id)
      | .seqadd .. => some (.seqaddPerform n (slotFor s n t.tid) e.id)
      | .atomM .. => some (.atomicExecute n (slotFor s n t.tid) e.id)
      | .vatomM .. => some (.atomicExecute n (slotFor s n t.tid) e.id)
      | _ => none))).flatten

/-- The step that a packet may take at its destination, or on its way back. -/
def packetEvent (p : Packet) : Option Event :=
  if p.landed then some (.ackReturn p.id)
  else if p.peer.isSome then none
  else match p.cargo with
    | .store _ => some (.remoteStoreLanding p.id)
    | .atomic .. => p.entry.map (fun e => .atomicExecute p.src p.head.slot e)
    | .vatom .. => p.entry.map (fun e => .atomicExecute p.src p.head.slot e)
    | .load .. => some (.remoteLoadServe p.id)
    | .arrive _ => some (.barrierArrival p.id)
    | .put .. => some (.putLanding p.id)
    | .msg .. => some (.messageArrival p.id)
    | .chunk tag .. => some (.copyLanding p.src tag)
    | .record d _ => some (.recordEnqueue d p.id)
    | .sched => none

end Sys2Proof.Machine
end

