-- ==== Sys2Proof/Machine/Transfer.lean ====
section
/-! DEFINITION. The E instructions after their issue: copies chunk by chunk, watermarks, departures of SEND and SPAWN,
slot tables and the scheduled network, and packets that end at an absent destination (R218, R224 to R237, R244 to R249). -/

namespace Sys2Proof.Machine

/-! ### Watermark channels (R92, R234, R235) -/

/-- Does a landing wait for its channel: a byte of it lies 4,096 or more above MARK (R235)? -/
def wmHolds (w : Wmk) (l : List (Nat × Byte × Byte)) : Bool :=
  w.armed && l.any (fun b => w.mark + 4096 ≤ b.1)

/-- MARK rises over the filled granules (R235). -/
def raiseMark (fuel : Nat) (w : Wmk) : Wmk :=
  match fuel with
  | 0 => w
  | fuel + 1 =>
    if w.mark < w.limit && (List.range 64).all (fun i => w.filled.contains (w.mark + i)) then
      raiseMark fuel { w with mark := w.mark + 64, filled := w.filled.filter (fun b => w.mark + 64 ≤ b) }
    else w

/-- Bytes land for a channel (R235). -/
def fillMark (w : Wmk) (l : List (Nat × Byte × Byte)) : Wmk :=
  if !w.armed then w
  else
    let new := (l.map (fun b => b.1)).filter (fun b => w.mark ≤ b && b < w.limit && !w.filled.contains b)
    raiseMark 65 { w with filled := w.filled ++ new }

/-- A landing on a core feeds a channel (R92, R235). -/
def feedChannel (s : State) (n : Nat) (ch : Option (BitVec 3)) (l : List (Nat × Byte × Byte)) : State :=
  match ch with
  | none => s
  | some c => s.modNet n (fun e =>
      match e.wmk[c.toNat]? with
      | some w => noteUpdate { e with wmk := e.wmk.setIfInBounds c.toNat (fillMark w l) } s.sched.clock (0x140 + c.toNat) 0 (wmkWord w)
      | none => e)

/-- Would a landing wait for its channel? -/
def channelHolds (s : State) (n : Nat) (ch : Option (BitVec 3)) (l : List (Nat × Byte × Byte)) : Bool :=
  match ch with
  | none => false
  | some c => match (s.core n).net.wmk[c.toNat]? with | some w => wmHolds w l | none => false

/-! ### Jobs -/

/-- The copy of a core that holds a tag. -/
def copyJob (s : State) (n tag : Nat) : Option (Job × CopyCmd × Nat) :=
  (s.core n).net.jobs.findSome? (fun j =>
    match j.kind with | .copy t v nx => if t = tag then some (j, parseCopy v, nx) else none | _ => none)

/-- Remove a job. -/
def dropJob (s : State) (n id : Nat) : State :=
  s.modNet n (fun e => { e with jobs := e.jobs.filter (fun j => j.head.id ≠ id) })

/-- The packets of a copy. -/
def chunkOf (n tag : Nat) (p : Packet) : Bool := p.src = n && (match p.cargo with | .chunk t .. => t = tag | _ => false)

/-- A copy is abandoned: its packets that have not landed never do, and CPYDONE says so (R229, R274). -/
def abandonCopy (s : State) (n : Nat) (j : Job) (tag : Nat) : State :=
  let s := dropJob { s with net := s.net.filter (fun p => !chunkOf n tag p) } n j.head.id
  finishE (recordHead s n j.head 0x0F (32 + tag)) j.head true

/-- A copy whose own access failed is abandoned and reported (R229). -/
def failCopy (s : State) (n : Nat) (j : Job) (tag : Nat) (cause : BitVec 16) (v : Word) : State :=
  engineReport (abandonCopy s n j tag) n j.head cause v

/-! ### Reads and writes of the copy engine (R194, R227, R266) -/

/-- Why a chunk does not move now: a missing translation, a page fault, or a failure. -/
inductive Stop
  | ask (va : Word) (fault : Bool)
  | fail (f : EngFail) (cause : BitVec 16) (val : Word)
  deriving DecidableEq, Repr

/-- The byte keys of a class-M range under a region's PASID. -/
def keysM (s : State) (n : Nat) (rid : BitVec 16) (p : Perm) (va : Word) (count : Nat) : Except Stop (List Nat) :=
  match count with
  | 0 => .ok []
  | count + 1 =>
    match spotM s n (pasidOf s rid) p none va with
    | .gen key =>
      match keysM s n rid p (va + 1) count with
      | .ok l => .ok (key :: l)
      | .error e => .error e
    | .walk => .error (.ask va false)
    | _ => .error (.ask va true)

/-- An engine's read of class M: bytes, or the poisoned line that it meets, region-fatal in a counter pool; its reply adds one sample
(R190, R266, R267). -/
def readM (s : State) (n : Nat) (h : EHead) (va : Word) (count : Nat) : Except Stop (List Byte) × State :=
  match keysM s n h.rid .r va count with
  | .error e => (.error e, s)
  | .ok keys =>
    let s := match keys with | k :: _ => noteRead s (.core n) (8 + h.slot % 8) (some h.tid) k count | [] => s
    match keys.find? (poisoned s) with
    | some k => (.error (.fail .ecc cSOFT (BitVec.ofNat 64 (physOf (lineOf k)))), (poolError s n h.slot k).getD s)
    | none => (.ok (keys.map (Memory.read s.mem)), match keys with | k :: _ => addLatency s n (latOf k) | [] => s)

/-- An engine's read of its own scratchpad. -/
def readL (s : State) (n : Nat) (h : EHead) (off count : Nat) : List Byte × State :=
  let s := noteRead s (.core n) (8 + h.slot % 8) (some h.tid) (keyL n off) count
  (Memory.readBytes s.mem (keyL n off) count, s)

/-- May an engine touch bytes of its own scratchpad: the range that R173 opens to the issuing mode, the handler's own tail in handler
mode? -/
def engineOpen (h : EHead) (off count : Nat) : Bool :=
  off + count ≤ 0x78000 || (!h.user && tailOf h.slot ≤ off && off + count ≤ tailOf h.slot + 0x1000)

/-- An engine's read of a tile part, class L or M; class G is refused (R173, R183, R229). -/
def readPart (s : State) (n : Nat) (h : EHead) (a : Word) (count : Nat) : Except Stop (List Byte) × State :=
  match classOf a with
  | .l =>
    if !engineOpen h a.toNat count then (.error (.fail .classG cPRIV a), s)
    else
      let (l, s) := readL s n h a.toNat count
      (.ok l, s)
  | .m => readM s n h a count
  | _ => (.error (.fail .classG cPRIV a), s)

/-- Masked bytes at byte keys. -/
def atKeys (keys : List Nat) (l : List (Byte × Byte)) : List (Nat × Byte × Byte) :=
  ((keys.zip l).map (fun e => (e.1, e.2))).filter (fun b => b.2.2 ≠ 0)

/-- Bytes with every bit written. -/
def solid (l : List Byte) : List (Byte × Byte) := l.map (fun b => (b, 0xFF))

/-- Where a part of a tile store goes: keys of memory, or a packet to a core. -/
inductive PartSpot
  | keys (l : List Nat)
  | away (m off : Nat) (peer : Option (BitVec 12))
  deriving DecidableEq, Repr

/-- The place of a part of a tensor store; a class-G frame passes the checks of R173 and R181 (R184, R201, R229). -/
def partSpot (s : State) (n : Nat) (h : EHead) (a : Word) (count : Nat) : Except Stop PartSpot :=
  match classOf a with
  | .l =>
    if !engineOpen h a.toNat count then .error (.fail .classG cPRIV a)
    else .ok (.keys ((List.range count).map (fun i => keyL n (a.toNat + i))))
  | .m =>
    match keysM s n h.rid .w a count with
    | .ok l => .ok (.keys l)
    | .error e => .error e
  | .g =>
    if a.extractLsb' 19 4 ≠ 0 || (a.extractLsb' 28 5).toNat > 23 then .error (.fail .classG cPRIV a)
    else match peerOf s (gPeer a) with
    | .away => if gOff a + count ≤ 0x78000 then .ok (.away (gCore a) (gOff a) (some (gPeer a))) else .error (.fail .classG cPRIV a)
    | .here =>
      if (gOff a + count ≤ 0x78000 || (gCore a = n && engineOpen h (gOff a) count)) && present s (gCore a) && tenantCore s h.rid (gCore a) then .ok (.away (gCore a) (gOff a) none)
      else .error (.fail .classG cPRIV a)
    | .none => .error (.fail .classG cPRIV a)
  | .none => .error (.fail .classG cPRIV a)

/-- The places that the parts of a tile store take in a send window, and whether it has room for them (R239). -/
def partsFit (s : State) (n : Nat) (l : List PartSpot) : Bool :=
  l.all (fun sp =>
    match sp with
    | .keys _ => true
    | .away m _ peer =>
      let same := (l.filter (fun q => match q with | .away k _ p => k = m && p = peer | _ => false)).length
      (s.net.filter (fun p => p.src = n && p.dst = m && p.peer = peer && windowed p)).length + same ≤ Config.window)

/-- Write a part of a tensor store, by packet to another core (R184, R201). -/
def writePart (s : State) (n : Nat) (h : EHead) (tag strm : Nat) (a : Word) (sp : PartSpot) (l : List (Byte × Byte)) : State :=
  match sp with
  | .keys k => (if classOf a = .m then markPage s h.rid a else s) |> fun s => storeDev s (atKeys k l)
  | .away m off peer =>
    sendPacket s (jobPacket s n h m peer strm a
      (.chunk tag (atKeys ((List.range l.length).map (fun i => off + i)) l) none false 0 none))

/-! ### Chunks (R227, R228) -/

/-- The chunks of a row: up to 64 bytes, or one tile. -/
def chunksPerRow (c : CopyCmd) : Nat := if c.kind ≤ 3 then (c.len + 63) / 64 else c.len

/-- The chunks of a copy. -/
def chunkTotal (c : CopyCmd) : Nat := c.rows * chunksPerRow c

/-- Chunk i of kinds 1 to 3: source, destination and length. -/
def chunkSpan (c : CopyCmd) (i : Nat) : Word × Word × Nat :=
  let r : Nat := i / chunksPerRow c
  let o := i % chunksPerRow c * 64
  (offsetAddr c.src ((r : Int) * c.spitch + o), offsetAddr c.dst ((r : Int) * c.dpitch + o), min 64 (c.len - o))

/-- Tile i of kinds 4 and 5: its coordinates, and the local offsets of its bytes and, for K4, of its scale byte (R227; log entry 28). -/
def chunkTile (c : CopyCmd) (e : Tensor) (i : Nat) : List Nat × Nat × Nat :=
  let r : Nat := i / c.len
  let j := i % c.len
  let t := tileCoords c.tcoord
  let a := if c.kind = 4 then offsetAddr c.dst ((r : Int) * c.dpitch) else offsetAddr c.src ((r : Int) * c.spitch)
  ([t.getD 0 0 + j, t.getD 1 0 + r, t.getD 2 0, t.getD 3 0], a.toNat + j * e.tile, a.toNat + tileScale c.len j)

/-- The channel that a copy feeds. -/
def copyChannel (c : CopyCmd) : Option (BitVec 3) := if c.wv then some c.wch else none

/-- The mailbox that a copy counts in. -/
def copyMailbox (c : CopyCmd) : Option (BitVec 6) := if c.tv then some c.mb else none

/-- The copy's next chunk has begun. -/
def nextChunk (s : State) (n tag : Nat) : State :=
  s.modNet n (fun e => { e with jobs := e.jobs.map (fun j =>
    match j.kind with
    | .copy t v nx => if t = tag then { j with kind := .copy t v (nx + 1) } else j
    | _ => j) })

/-- A chunk lands in the issuing core's scratchpad, as bytes at local offsets; none while its channel holds it. -/
def landLocal (s : State) (n tag : Nat) (c : CopyCmd) (b : List (Nat × Byte × Byte)) : Option State :=
  if channelHolds s n (copyChannel c) b then none
  else some (nextChunk (feedChannel (storeRaw s (b.map (fun x => (keyL n x.1, x.2)))) n (copyChannel c) b) n tag)

/-- A tile of an entry as TLD reads it, with the scale byte of K4 at byte 16 (R201, R227). -/
def readTile (s : State) (n : Nat) (h : EHead) (e : Tensor) (t : List Nat) (a : Word) (tn : Nat) :
    Except Stop Vec × State :=
  match readPart s n h a e.tile with
  | (.error x, s) => (.error x, s)
  | (.ok l, s) =>
    let v : Vec := BitVec.ofNat 512 (leValue l) &&& e.keep t
    if e.fmt ≠ 8 then (.ok v, s)
    else
      match readPart s n h (BitVec.ofNat 64 (e.scale + tn)) 1 with
      | (.error x, s) => (.error x, s)
      | (.ok b, s) => (.ok (v ||| (BitVec.ofNat 512 (leValue b) <<< 128)), s)

/-- What a chunk does: nothing yet, the state after it, or why it stops, with the state of its reads. -/
inductive Moved
  | held
  | done (s : State)
  | stop (e : Stop) (s : State)

/-- Chunk i of kind 4 or 5 (R201, R227, R229). -/
def moveTile (s : State) (n : Nat) (h : EHead) (tag : Nat) (c : CopyCmd) (i : Nat) : Moved :=
  let s := noteEntry s n h.rid c.tid (8 + h.slot % 8) h.tid
  match findEntry s n h.rid c.tid with
  | none => .stop (.fail .tile cPRIV (entryAddr s (BitVec.ofNat 2 (dieOf n)) c.tid)) s
  | some (e, held) =>
    let (t, off, soff) := chunkTile c e i
    let land (s : State) (v : Vec) : Moved :=
      let scale := if e.fmt = 8 then plainBytes soff [(v >>> 128).setWidth 8] else []
      match landLocal s n tag c (plainBytes off (leBytes v.toNat e.tile) ++ scale) with
      | some s => .done s
      | none => .held
    let miss (s : State) (tns : List Nat) : State :=
      if held.isSome then s
      else
        let lines := missLines s n h.rid c.tid e tns
        sampleLines (readMissed s n h.rid c.tid (8 + h.slot % 8) h.tid lines) n lines
    let asks := tableAsk s n h.rid e held
    let s := if asks.isSome then s else noteWords s n h.rid c.tid (8 + h.slot % 8) h.tid e held.isSome (e.tileNo t).toList
    match asks, findTile s n h.rid c.tid e held t with
    | some va, _ => .stop (.ask va false) s
    | none, .trap cause v => .stop (.fail .tile cause v) s
    | none, .walk va => .stop (.ask va false) s
    | none, .fault va => .stop (.ask va true) s
    | none, .outside => if c.kind = 4 then land (miss s []) 0 else .done (nextChunk (miss s []) n tag)
    | none, .at' a tn =>
      let s := miss s [tn]
      if c.kind = 4 then
        match readTile s n h e t a tn with
        | (.error x, s) => .stop x s
        | (.ok v, s) => land s v
      else
        match partSpot s n h a e.tile, (if e.fmt = 8 then partSpot s n h (BitVec.ofNat 64 (e.scale + tn)) 1 else .ok (.keys [])) with
        | .error x, _ => .stop x s
        | _, .error x => .stop x s
        | .ok sp, .ok sc =>
          if !partsFit s n (if e.fmt = 8 then [sp, sc] else [sp]) then .held
          else
            let (l, s) := readL s n h off e.tile
            let (b, s) := if e.fmt = 8 then readL s n h soff 1 else ([], s)
            let keep := leBytes (e.keep t).toNat e.tile
            let s := writePart s n h tag c.strm a sp (l.zip keep)
            let s := if e.fmt = 8 then writePart s n h tag c.strm (BitVec.ofNat 64 (e.scale + tn)) sc (solid b) else s
            .done (nextChunk s n tag)

/-- Are packets of a copy on their way to another destination core (R219)? -/
def strayChunks (s : State) (n tag dst : Nat) (peer : Option (BitVec 12)) : Bool :=
  s.net.any (fun p => chunkOf n tag p && !p.landed && !(p.dst = dst && p.peer = peer))

/-- A chunk of kind 3 departs when its window is open; the last one, with which the arrival and the count are made, once those for other
cores have landed (R219, R239). -/
def departChunk (s : State) (n : Nat) (h : EHead) (tag : Nat) (c : CopyCmd) (i : Nat) : Moved :=
  let (src, dst, len) := chunkSpan c i
  let peer := gRoute s dst
  let last : Bool := i + 1 = chunkTotal c
  if !windowOpen s n (gCore dst) peer || (last && strayChunks s n tag (gCore dst) peer) then .held
  else
    let (l, s) := readL s n h src.toNat len
    .done (sendPacket (nextChunk s n tag) (jobPacket s n h (gCore dst) peer c.strm dst
      (.chunk tag (plainBytes (gOff dst) l) (copyChannel c) last c.bar (copyMailbox c))))

/-- Chunk i of a copy (R227). -/
def moveChunk (s : State) (n : Nat) (h : EHead) (tag : Nat) (c : CopyCmd) (i : Nat) : Moved :=
  let (src, dst, len) := chunkSpan c i
  match c.kind with
  | 1 =>
    match readM s n h src len with
    | (.error x, s) => .stop x s
    | (.ok l, s) => match landLocal s n tag c (plainBytes dst.toNat l) with | some s => .done s | none => .held
  | 2 =>
    match keysM s n h.rid .w dst len with
    | .error x => .stop x s
    | .ok keys =>
      let (l, s) := readL s n h src.toNat len
      let s := markPage (markPage s h.rid dst) h.rid (dst + BitVec.ofNat 64 (len - 1))
      .done (nextChunk (storeDev s (atKeys keys (solid l))) n tag)
  | 3 => departChunk s n h tag c i
  | _ => moveTile s n h tag c i

/-- Does a WMSET issued before a job still wait to be applied (R234)? -/
def wmsetBefore (s : State) (n id : Nat) : Bool :=
  ((s.core n).net.jobs.takeWhile (fun j => j.head.id ≠ id)).any (fun j => match j.kind with | .wmset .. => true | _ => false)

/-- A core as the destination of landings, of this package or of another. -/
abbrev LandingCore : Type := Nat × Option (BitVec 12)

/-- The core where a part of a tile lands: none in memory. -/
def partCore (s : State) (n : Nat) (a : Word) : List LandingCore :=
  match classOf a with
  | .l => [(n, none)]
  | .g => [(gCore a, gRoute s a)]
  | _ => []

/-- The cores where chunk i of a copy lands; none of a tile whose place is still unknown (R227, R228). -/
def chunkCores (s : State) (n : Nat) (h : EHead) (c : CopyCmd) (i : Nat) : Option (List LandingCore) :=
  match c.kind with
  | 2 => some []
  | 3 => some (partCore s n (chunkSpan c i).2.1)
  | 5 =>
    match findEntry s n h.rid c.tid with
    | none => some []
    | some (e, held) =>
      match findTile s n h.rid c.tid e held (chunkTile c e i).1 with
      | .at' a tn => some (partCore s n a ++ (if e.fmt = 8 then partCore s n (BitVec.ofNat 64 (e.scale + tn)) else []))
      | .walk _ => none
      | .fault _ => none
      | _ => some []
  | _ => some [(n, none)]

/-- Has a copy, from chunk `next` on, landings still to be made at one of some cores? -/
def landsAt (s : State) (n : Nat) (h : EHead) (c : CopyCmd) (next : Nat) (l : List LandingCore) : Bool :=
  let meets (i : Nat) : Bool := ((chunkCores s n h c i).getD l).any (fun m => l.contains m)
  if c.kind = 3 || c.kind = 5 then (List.range (chunkTotal c - next)).any (fun i => meets (next + i))
  else next < chunkTotal c && meets next

/-- Must chunk i of a copy wait: has a copy of the same thread, issued before, still landings to make at the same core on the same
stream, or is a chunk or put of any thread that departed before on its way to the own core on that stream (R228, R237)? -/
def copyBefore (s : State) (n : Nat) (j : Job) (c : CopyCmd) (i : Nat) : Bool :=
  let l := (chunkCores s n j.head c i).getD []
  ((s.core n).net.jobs.takeWhile (fun q => q.head.id ≠ j.head.id)).any (fun q =>
    match q.kind with
    | .copy _ v nx =>
      let d := parseCopy v
      q.head.tid = j.head.tid && d.strm = c.strm && !l.isEmpty && landsAt s n q.head d nx l
    | _ => false) ||
  (c.kind ≠ 3 && l.contains (n, none) && s.net.any (fun p => p.src = n && p.dst = n && p.peer.isNone && !p.landed && p.strm = c.strm &&
    (match p.cargo with | .chunk .. => true | .put .. => true | _ => false)))

/-- Is a chunk of a copy on its way to the issuing core itself? The next one reads its bytes (R227). -/
def chunkHome (s : State) (n tag : Nat) : Bool :=
  s.net.any (fun p => chunkOf n tag p && !p.landed && p.dst = n && p.peer.isNone)

/-- May a copy move its next chunk (R218, R227, R228, R234)? -/
def copyMay (s : State) (n : Nat) (j : Job) (tag : Nat) (c : CopyCmd) (i : Nat) : Bool :=
  i < chunkTotal c && headReady s n j.head && !j.head.bad && !wmsetBefore s n j.head.id && !copyBefore s n j c i && !chunkHome s n tag

/-- Does the window or the landing queue hold a copy's next chunk (R224, R240)? -/
def chunkHeld (s : State) (n : Nat) (j : Job) (tag : Nat) (c : CopyCmd) (i : Nat) : Bool :=
  match moveChunk s n j.head tag c i with | .held => true | _ => false

/-- The tags whose next chunk the engine could move. -/
def readyTags (s : State) (n : Nat) : List Nat :=
  (s.core n).net.jobs.filterMap (fun j =>
    match j.kind with
    | .copy tag v i =>
      let c := parseCopy v
      if copyMay s n j tag c i && !chunkHeld s n j tag c i then some tag else none
    | _ => none)

/-- The tag that the engine serves in this clock: the next ready one in turn, and one chunk in a clock (R224). -/
def nextCopyTag (s : State) (n : Nat) : Option Nat :=
  let e := (s.core n).net
  let place (t : Nat) : Nat := (t + 31 - e.served) % 32
  if e.movedAt = s.sched.clock then none
  else (readyTags s n).foldl (fun (best : Option Nat) t =>
    match best with | some b => if place t < place b then some t else some b | none => some t) none

/-- The oldest chunk of a copy in flight that may land (R228). -/
def chunkInFlight (s : State) (n tag : Nat) : Option Packet :=
  s.net.find? (fun p => chunkOf n tag p && (arriving s p.id).isSome)

/-- What the landing of a chunk at another core does there: bytes, channel, and for the last of the copy its arrival and
its count (R228, R229, R235). -/
def chunkEffect (s : State) (n ctx : Nat) (own : Option Nat) (l : List (Nat × Byte × Byte)) (ch : Option (BitVec 3)) (last : Bool)
    (bar : Nat) (mb : Option (BitVec 6)) : State :=
  let s := feedChannel (storeRaw s (l.map (fun b => (keyL n b.1, b.2)))) n ch l
  if !last then s
  else
    let s := if bar = 0 then s else arriveAt s n bar ctx own
    match mb with | some m => addMailbox s n m | none => s

/-- A chunk of kind 3, or of a tile, lands at another core. -/
def landChunk (s : State) (id : Nat) : State :=
  atDestination s id (fun p =>
    match p.cargo with
    | .chunk _ l ch last bar mb =>
      if channelHolds s p.dst ch l then s 
      else chunkEffect (setLanded s id) p.dst (8 + p.head.slot % 8) (some p.head.tid) l ch last bar mb
    | _ => s)

/-- The copy's next chunk begins: it lands, departs, waits for a page, or fails. The engine has served its tag (R224). -/
def beginChunk (s : State) (n tag : Nat) (j : Job) (c : CopyCmd) (i : Nat) : State :=
  let s := s.modNet n (fun e => { e with served := tag, movedAt := s.sched.clock })
  match moveChunk s n j.head tag c i with
  | .held => s
  | .done s => s
  | .stop (.ask va fault) s => engineAsk s n j.head va fault (c.kind = 2 || c.kind = 5)
  | .stop (.fail f _ _) s => s.schedule s.sched.clock (.engineFailure n tag f)

/-- COPY_LANDING: a chunk lands; one of kind 3 departs first. Where a chunk may depart and another land, which comes first
is open (R224, R228; log entry 5). -/
def execCopyLanding (core tag : Nat) (s : State) : Result :=
  .next (match copyJob s core tag with
    | none => s
    | some (j, c, i) =>
      let may : Bool := nextCopyTag s core = some tag
      match chunkInFlight s core tag with
      | some p =>
        let s := s.tickFresh
        if may && Config.happens s.sched.fresh then beginChunk s core tag j c i else landChunk s p.id
      | none => if may then beginChunk s core tag j c i else s)

/-- COPY_COMPLETE: arrival, count, CPYDONE and token, in this order; at its destination a kind 3 made the first two with
its last chunk (R229). -/
def execCopyComplete (core tag : Nat) (s : State) : Result :=
  .next (match copyJob s core tag with
    | none => s
    | some (j, c, i) =>
      if i < chunkTotal c || s.net.any (chunkOf core tag) then s
      else
        let s := if c.kind = 3 || c.bar = 0 then s else arriveAt s core c.bar (8 + j.head.slot % 8) (some j.head.tid)
        let s := match copyMailbox c with | some m => if c.kind = 3 then s else addMailbox s core m | none => s
        finishE (recordHead (dropJob s core j.head.id) core j.head 0x0F tag) j.head false)

/-- The first address of a copy's next chunk that has no translation. -/
def missingPage (s : State) (n : Nat) (j : Job) (tag : Nat) (c : CopyCmd) (i : Nat) : Word :=
  match moveChunk s n j.head tag c i with | .stop (.ask va _) _ => va | _ => c.src

/-- ENGINE_FAILURE of a copy: the failure of its next chunk, a failed page request, or a packet whose destination was
absent too long (R229, R244, R266). -/
def execEngineFailure (core tag : Nat) (f : EngFail) (s : State) : Result :=
  .next (match copyJob s core tag with
    | none => s
    | some (j, c, i) =>
      match f with
      | .page => if j.head.asked.isSome then failCopy s core j tag cXLATE (missingPage s core j tag c i) else s
      | .absentDest =>
        match s.net.find? (fun p => chunkOf core tag p &&
            ((p.peer.isSome && p.link.isSome) || (match p.held with | some g => g ≤ s.gtime | none => false))) with
        | some p => failCopy s core j tag cABSENT p.val
        | none => s
      | f =>
        match moveChunk s core j.head tag c i with
        | .stop (.fail g cause v) s => if f = g then failCopy s core j tag cause v else s
        | _ => s)

/-- WMSET_APPLY: in issue order with the WMSETs and copies before it (R234). `tag` is the instruction's identity. -/
def execWmsetApply (core tag : Nat) (s : State) : Result :=
  .next (match (s.core core).net.jobs.find? (fun j => j.head.id = tag) with
    | some j =>
      match j.kind with
      | .wmset ch base limit =>
        let before := (s.core core).net.jobs.takeWhile (fun q => q.head.id ≠ tag)
        let behind := before.any (fun q => match q.kind with
          | .wmset .. => true | .copy .. => !headReady s core q.head | _ => false)
        if behind || !headReady s core j.head || j.head.bad then s
        else
          finishE ((dropJob s core tag).modNet core (fun e =>
            { e with wmk := e.wmk.setIfInBounds ch.toNat ⟨decide (base ≠ limit), base, limit, base, []⟩ })) j.head false
      | _ => s
    | none => s)

/-- DEST_ABSENT_TIMEOUT: a held packet is discarded at its time; a packet to another package may be refused there at any
time, a window message as one for a deterministic region too, with ILLEGAL: which of the two the other package answers is free
(R244, R298; log entry 16). -/
def execDestAbsentTimeout (id : Nat) (s : State) : Result :=
  .next (match s.net.find? (fun p => p.id = id) with
    | none => s
    | some p =>
      let due : Bool := !p.landed && ((p.peer.isSome && p.link.isSome) || (match p.held with | some g => g ≤ s.gtime | none => false))
      if !due then s
      else
        match p.cargo with
        | .chunk tag .. =>
          match copyJob s p.src tag with
          | some (j, _, _) => failCopy s p.src j tag cABSENT p.val
          | none => dropPacket s id
        | .record _ _ => s
        | .sched => s
        | _ =>
          if isMessage p && p.peer.isSome && p.link.isSome then
            let s := s.tickFresh
            refusePacket s p (if Config.happens s.sched.fresh then cILLEGAL else cABSENT)
          else refusePacket s p cABSENT)

/-! ### Departures (R218, R237, R249) -/

/-- A SEND of mode 0 or 1 departs (R237, R244). -/
def departSend (s : State) (n : Nat) (j : Job) (v : Vec) (w : Word) : State :=
  match sendRoute s j.head.rid w with
  | none => finishE (engineReport (dropJob s n j.head.id) n j.head cABSENT w) j.head true
  | some (dst, peer) =>
    if !windowOpen s n dst peer then s
    else
      let strm := (w.extractLsb' 48 4).toNat
      if w.extractLsb' 62 2 = 1 then
        let tag := if w.getLsbD 58 then some (w.extractLsb' 52 6) else none
        sendPacket (dropJob s n j.head.id) (jobPacket s n j.head dst peer strm (putAddr w) (.put (gOff (putAddr w)) v tag))
      else sendPacket (dropJob s n j.head.id) (jobPacket s n j.head dst peer 0 w (messageCargo j.head.rid w v false))

/-- A SPAWN's record leaves for its die (R249). To the own die it takes no longer than leaves the 32 clocks of the fetch and the
slot's turn within the 96 clocks of R45 (log entry 5). -/
def departSpawn (s : State) (n : Nat) (j : Job) (d : BitVec 2) (v : Vec) : State :=
  if d.toNat ≠ dieOf n && !windowOpen s n (dispatchEnd d.toNat) none then s
  else
    sendPacket (dropJob s n j.head.id) (fun id =>
      { jobPacket s n j.head (dispatchEnd d.toNat) none j.head.dstr 0 (.record d v) id with
        due := if d.toNat = dieOf n then some (s.sched.clock + Config.spawnWay) else none })

/-! ### Slot tables (R245, R246) -/

/-- Is a slot-table entry reserved: a code 6 or 7, a non-zero zero bit, or one input on two outputs (R245, R246)? -/
def slotEntryBad (e : Word) : Bool :=
  let codes := (List.range 5).map (outCode e)
  let used := codes.filter (fun c => c ≠ 0)
  codes.any (fun c => 6 ≤ c) || e.extractLsb' 18 45 ≠ 0 || used.eraseDups ≠ used

/-- A slot table as SNLD reads it: entries until one with E = 1, or 64; ILLEGAL at a bad one, PRIV at one outside the range of R173
(R245). -/
def readTable (m : List Host.Cell) (n : Nat) (h : EHead) (off count : Nat) : Except (BitVec 16 × Word) (List Word) :=
  match count with
  | 0 => .ok []
  | count + 1 =>
    let e : Word := BitVec.ofNat 64 (Memory.readLE m (keyL n off) 8)
    if !engineOpen h off 8 then .error (cPRIV, BitVec.ofNat 64 off)
    else if slotEntryBad e then .error (cILLEGAL, h.word)
    else if e.getLsbD 63 then .ok [e]
    else
      match readTable m n h (off + 8) count with
      | .ok l => .ok (e :: l)
      | .error x => .error x

/-- SNLD reads its table: it waits for its tick, or stops (R245, R267). -/
def readSnld (s : State) (n : Nat) (j : Job) (off : Nat) : State :=
  let read := readTable (soundMem s) n j.head off 64
  let s := noteRead s (.core n) (8 + j.head.slot % 8) (some j.head.tid) (keyL n off)
    (8 * (match read with | .ok l => l.length | .error _ => 64))
  match read with
  | .ok l =>
    (dropJob s n j.head.id).modNet n (fun e => { e with router := { e.router with next := e.router.next ++ [(l, j.head)] } })
  | .error (c, v) => finishE (engineReport (dropJob s n j.head.id) n j.head c v) j.head true

/-- Is the implicit release of a SEND or SPAWN performed, with the loads before it landed (R45, R209, R237)? -/
def jobReleased (s : State) (n : Nat) (j : Job) : Bool :=
  match j.kind with
  | .send .. => (s.ownerThread n j.head.tid).all (fun t => streamLanded t j.head.dstr j.head.before)
  | .spawn .. => (s.ownerThread n j.head.tid).all (fun t => streamLanded t j.head.dstr j.head.before)
  | _ => true

/-- One clock of a job: abandoned through a consumed token, or its departure or read (R218, R229). -/
def tickJob (s : State) (n : Nat) (j : Job) : State :=
  if j.head.bad && j.head.waits.isEmpty then
    match j.kind with
    | .copy tag _ _ => abandonCopy s n j tag
    | _ => finishE (dropJob s n j.head.id) j.head true
  else if !headReady s n j.head || !jobReleased s n j then s
  else
    match j.kind with
    | .send v w =>
      let before := ((s.core n).net.jobs.takeWhile (fun q => q.head.id ≠ j.head.id)).any (fun q =>
        q.head.tid = j.head.tid && (match q.kind with | .send .. => true | _ => false))
      if before then s else departSend s n j v w
    | .spawn d v => departSpawn s n j d v
    | .snld off _ => readSnld s n j off
    | _ => s

/-- One clock of a core's jobs. -/
def tickJobs (s : State) (n : Nat) : State := (s.core n).net.jobs.foldl (fun s j => tickJob s n j) s

/-- The steps that the jobs of a core may take. -/
def jobEvents (s : State) (n : Nat) : List Event :=
  (match nextCopyTag s n with | some tag => [.copyLanding n tag] | none => []) ++
  (s.core n).net.jobs.filterMap (fun j =>
    match j.kind with
    | .copy tag v i =>
      let c := parseCopy v
      if chunkTotal c ≤ i && !s.net.any (chunkOf n tag) then some (.copyComplete n tag) else none
    | .wmset .. => some (.wmsetApply n j.head.id)
    | _ => none)

/-! ### The scheduled network (R245 to R247) -/

/-- Is the present clock a tick of a domain (R61)? -/
def isTick (s : State) (d : Domain) : Bool := !d.frozen && d.first ≤ domClock s d && s.pulsed (match s.region d.root with | some r => r.cores.headD 0 | none => 0)

/-- SNLD_TABLE_EFFECT: the tables of a router whose tick has come take effect in order (R245). -/
def execSnldTableEffect (core : Nat) (s : State) : Result :=
  .next (let r := (s.core core).net.router
    match r.dom.bind (fun root => s.domains.find? (fun d => d.root = root)) with
    | none => s
    | some d =>
      if !isTick s d then s
      else
        let due := r.next.filter (fun e => d.ticks % e.1.length = 0)
        due.foldl (fun s e =>
          finishE (s.modNet core (fun n => { n with router := { n.router with
            table := e.1, next := n.router.next.filter (fun x => x.2.id ≠ e.2.id) } })) e.2 false) s)

/-- The core next to another in direction 0 north, 1 east, 2 south, 3 west; none over the die's edge. -/
def neighbour (n o : Nat) : Option Nat :=
  match o with
  | 0 => if rowOf n = 0 then none else some (n - 32)
  | 1 => if colOf n = 31 then none else some (n + 1)
  | 2 => if rowOf n = 23 then none else some (n + 32)
  | 3 => if colOf n = 0 then none else some (n - 1)
  | _ => none

/-- The input by which a packet sent in direction o enters the next router (R246). -/
def entryCode (o : Nat) : BitVec 3 := match o with | 0 => 3 | 1 => 4 | 2 => 1 | _ => 2

/-- A fault of the scheduled network: TIMING with its X code at the core where it occurs, and region-fatal (R247, R274). -/
def snetFault (s : State) (p : SnPacket) (n x : Nat) : State :=
  let tk := match s.domains.find? (fun d => d.root = p.dom) with | some d => d.ticks | none => 0
  let s := recordCore s n 0x18 p.head.slot (s.tagOf p.head.rid) (cForm x 0 tk) (some 0) (some p.head.tid)
  match s.region p.head.rid with
  | some r => if r.phase = .ending then s else fatalFor s n p.head.slot p.head.rid cTIMING sylE 0 tk 0
  | none => s

/-- What a packet meets at its router in this tick: a fault, a delivery, or the next router. -/
inductive Hop
  | fault (x : Nat)
  | deliver
  | pass (n : Nat) (code : BitVec 3)
  deriving DecidableEq, Repr

/-- The router's action on a packet at a tick. Of an injection only the output that takes the local input is looked for again, and not
INJSLOT, which the SEND tested (R246, R247; DESIGN CHOICE, unsafe; log entry 74). -/
def hopOf (s : State) (p : SnPacket) (t : Nat) : Hop :=
  let r := (s.core p.at').net.router
  if r.dom ≠ some p.dom then .fault 4
  else
    match outputFor (tableEntryAt r.table t) p.from'.toNat with
    | none => .fault 2
    | some 4 =>
      if p.at' ≠ p.dst then .fault 3
      else if (s.core p.dst).net.inbox.length + pendingSnet s p.dst < Config.inbox then .deliver else .fault 5
    | some o =>
      match neighbour p.at' o with
      | some m => if distance m p.dst < distance p.at' p.dst then .pass m (entryCode o) else .fault 3
      | none => .fault 3

/-- Change one scheduled packet. -/
def modSn (s : State) (id : Nat) (f : SnPacket → SnPacket) : State :=
  { s with snet := s.snet.map (fun p => if p.head.id = id then f p else p) }

/-- One tick of one packet: it hops, is delivered, or becomes readable four ticks after its delivery. It joins the inbox when it becomes
readable, behind the window messages that came since its delivery (R247; DESIGN CHOICE, unsafe: no rule says which of the two
ticks is its age for QNI, R241; log entry 66). -/
def hopPacket (s : State) (p : SnPacket) (t : Nat) : State :=
  let gone : State := { s with snet := s.snet.filter (fun q => q.head.id ≠ p.head.id) }
  if p.tick ≠ t then s
  else if p.out then
    let vcn := match s.region p.head.rid with | some r => vcnOf r p.at' | none => 0
    gone.modNet p.dst (fun e => { e with inbox := e.inbox ++ [⟨p.dslot, BitVec.ofNat 16 vcn, p.head.rid, p.data⟩] })
  else
    match hopOf s p t with
    | .fault x => snetFault gone p p.at' x
    | .deliver => finishE (modSn s p.head.id (fun q => { q with out := true, tick := t + 4 })) p.head false
    | .pass n code => modSn s p.head.id (fun q => { q with at' := n, from' := code, tick := t + 1 })

/-- SNET_HOP: one tick of a domain's packets (R247). -/
def execSnetHop (rid : BitVec 16) (s : State) : Result :=
  .next (match s.domains.find? (fun d => d.root = rid) with
    | none => s
    | some d => if isTick s d then (s.snet.filter (fun p => p.dom = rid)).foldl (fun s p => hopPacket s p d.ticks) s else s)

end Sys2Proof.Machine
end

