-- ==== Sys2Proof/Machine/Placement.lean ====
section
/-! DEFINITION. The dispatch unit: enqueueing, watchers, the order of placement, gangs, deterministic lists, the placed
thread, kernel boundaries and Ringmaster launches (R23 to R46, R71 to R73, R93, R295 to R297). -/

namespace Sys2Proof.Machine

/-! ### Events to the host (R314) -/

/-- The registers of a function. -/
def State.fnRegs (s : State) (f : Fn) : FnRegs :=
  match s.bar.fns.find? (fun e => e.1 = f) with | some e => e.2 | none => FnRegs.reset

/-- Change the registers of a function. -/
def State.modFn (s : State) (f : Fn) (g : FnRegs → FnRegs) : State :=
  let l := s.bar.fns.filter (fun e => e.1 ≠ f) ++ [(f, g (s.fnRegs f))]
  { s with bar := { s.bar with fns := l } }

/-- An event: kind, its number, its detail and GTIME (R314). A full ring drops it. -/
def eventTo (s : State) (f : Fn) (kind num detail : Nat) : State :=
  let r := s.fnRegs f
  let head := (r.evidx.extractLsb' 0 8).toNat
  let tail := (r.evidx.extractLsb' 8 8).toNat
  if !r.evbase.getLsbD 0 then s
  else if (head + 1) % 256 = tail then s.modFn f (fun r => { r with evidx := r.evidx ||| 0x10000 })
  else
    let a := keyHost ((r.evbase.extractLsb' 12 36).toNat * 4096 + 16 * head)
    let bytes := leBytes kind 2 ++ leBytes num 2 ++ leBytes detail 4 ++ leBytes s.gtime 8
    let s := storeDev s (plainBytes a bytes)
    (s.modFn f (fun r => { r with evidx := (r.evidx &&& ~~~0xFF) ||| BitVec.ofNat 64 ((head + 1) % 256) })).emit (.msix f)

/-! ### Enqueueing (R29, R45, R297) -/

/-- The priority of a record's task (R35, R296). -/
def basePrio (r : Region) (t : Trec) : Nat :=
  if t.tflags.getLsbD 8 && !r.det then min t.tpri r.prio else r.prio

/-- The list of a deterministic task: 7 × VCN + slot (R297). -/
def detList (n l : Nat) : Nat := 7 * (l % n) + l / n % 7

/-- Its position (R297). -/
def detPos (n l : Nat) : Nat := l / (7 * n)

/-- May a deterministic record join its list (R297)? -/
def detJoins (s : State) (r : Region) (t : Trec) : Bool :=
  let n := r.cores.length
  let list := detList n t.logical
  let pos := detPos n t.logical
  assocGet r.detNext list 0 ≤ pos &&
    !(s.dies.toList.any (fun d => d.disp.any (fun e => e.rid = r.rid && e.saved.isNone && (parseTrec e.trec).logical = t.logical)))

/-- The device writes SEQN into the RCB (R16, R29). -/
def writeSeqn (s : State) (r : Region) (v : Word) : State := storeDev s (plainBytes (r.rcb + 136) (leBytes v.toNat 8))

/-- A boundary of a region and of its ancestors ends (R295). -/
def leaveRest (s : State) (rid : BitVec 16) : State :=
  { s with regions := s.regions.map (fun r => if s.within r.rid rid then { r with atRest := false } else r) }

/-- What the watchers find of a record: not yet, met, a poisoned counter, a page to ask for, or a failure (R31). -/
inductive Watch
  | later
  | met
  | poisoned
  | ask (va : Word) (fault : Bool)
  | broken (va : Word)
  deriving DecidableEq, Repr

/-- One pair of a record of a region, seen from a die (R31, R266). -/
def watchPair (s : State) (d : BitVec 2) (r : Region) (p : Nat × Nat) : Watch :=
  let va := counterAddr s r.rid (BitVec.ofNat 64 p.1)
  match watchSpot s d r.pasid va with
  | none => .ask va false
  | some e =>
    let key := xlateKey e.t va.toNat
    if reservedKey key then .broken va
    else if !e.t.r then .ask va true
    else if s.poison.contains (lineOf key) then .broken va
    else
      let c := Memory.readLE s.mem key 8
      if 2 ^ 63 ≤ c then .poisoned else if p.2 ≤ c then .met else .later

/-- All used pairs of a record: a poisoned counter first, then a failure, a page, an unmet pair (R31, R33). -/
def watchRecord (s : State) (d : BitVec 2) (r : Region) (t : Trec) : Watch :=
  let l := t.used.map (watchPair s d r)
  if l.contains .poisoned then .poisoned
  else match l.find? (fun w => match w with | .broken _ => true | _ => false) with
    | some w => w
    | none =>
      match l.find? (fun w => match w with | .ask _ _ => true | _ => false) with
      | some w => w
      | none => if l.contains .later then .later else .met

/-- Change a record of a dispatch unit. -/
def modEntry (s : State) (d : BitVec 2) (id : Nat) (f : Entry → Entry) : State :=
  s.modDie d (fun e => { e with disp := e.disp.map (fun x => if x.id = id then f x else x) })

/-- Remove a record. -/
def dropEntry (s : State) (d : BitVec 2) (id : Nat) : State :=
  s.modDie d (fun e => { e with disp := e.disp.filter (fun x => x.id ≠ id) })

/-- The region whose pool a region uses: the nearest of it and its ancestors with a pool of its own (R18, R31). -/
def poolHolder (s : State) (rid : BitVec 16) : BitVec 16 :=
  match (s.ancestry rid).find? (fun r => r.ownPool) with | some r => r.rid | none => rid

/-- The keys of a record's counters whose pages a die has (R32). -/
def pairKeys (s : State) (d : BitVec 2) (r : Region) (t : Trec) : List Nat :=
  t.used.filterMap (fun p =>
    let va := counterAddr s r.rid (BitVec.ofNat 64 p.1)
    (watchSpot s d r.pasid va).map (fun e => xlateKey e.t va.toNat))

/-- A die's unit reads the counters of a record's pairs: a soft error of a counter's word is found (R267). -/
def readPairs (s : State) (d : BitVec 2) (r : Region) (t : Trec) : State :=
  t.used.foldl (fun s p =>
    let va := counterAddr s r.rid (BitVec.ofNat 64 p.1)
    match watchSpot s d r.pasid va with
    | some e => noteRead s (.die d) 0 none (xlateKey e.t va.toNat) 8
    | none => s) s

/-- A die's unit meets a page that it may not read: recorded, and requested from the host as an engine does (R31, R194,
R274). -/
def unitAsk (s : State) (d : BitVec 2) (r : Region) (va : Word) : Nat × State :=
  let s := recordDie s d 0x11 r.tag (faultForm va false false 0)
  askPage (dropXlate s r.pasid va.toNat) d r.pasid va.toNat none

/-- The watchers evaluate one waiting record; of one that is ready or waits for a page they see only a poisoned counter (R31 to
R33, R265). -/
def evaluateEntry (s : State) (d : BitVec 2) (e : Entry) : State :=
  if e.saved.isSome then s
  else
    match s.region e.rid with
    | none => dropEntry s d e.id
    | some r =>
      let t := parseTrec e.trec
      let s := readPairs s d r t
      let w := watchRecord s d r t
      if w = .poisoned then dropEntry s d e.id
      else if e.ready.isSome || e.waiting.isSome then s
      else
        let s := modEntry s d e.id (fun e => { e with
          asking := match w with | .ask _ false => true | _ => false
          named := (e.named ++ pairKeys s d r t).eraseDups })
        match w with
        | .met => modEntry s d e.id (fun e => { e with ready := some s.sched.clock })
        | .poisoned => s
        | .later => s
        | .ask va true =>
          let (id, s) := unitAsk s d r va
          modEntry s d e.id (fun e => { e with waiting := some id, counter := va })
        | .ask va false => askXlate s (d.toNat * 768) r.pasid va.toNat
        | .broken va => fatalUnit s d 0 (poolHolder s r.rid) cENGINE va

/-- TASK_READY: a waiting record is evaluated (R31, R32). -/
def execTaskReady (d : BitVec 2) (id : Nat) (s : State) : Result :=
  .next (match (s.die d).disp.find? (fun e => e.id = id) with
    | some e => evaluateEntry s d e
    | none => s)

/-- A record enters the dispatch unit of its die, which evaluates it; a deterministic one whose place is taken does not,
and gives its L (R29, R32, R45, R297). -/
def enqueueRecord (s : State) (d : BitVec 2) (r : Region) (v : Vec) (spawner : Option Nat) : Option Nat × State :=
  let t := parseTrec v
  if r.det && !detJoins s r t then (some t.logical, s)
  else
    let (id, s) := s.newId
    let next := r.seqn + BitVec.ofNat 64 t.members
    let e : Entry := ⟨id, r.rid, v, r.seqn, spawner, none, id, none, false, none, none, 0, false, [], none⟩
    let s := (s.modRegion r.rid (fun r => { r with seqn := next })).modDie d (fun x => { x with disp := x.disp ++ [e] })
    (none, evaluateEntry (leaveRest (writeSeqn s r next) r.rid) d e)

/-- RECORD_ENQUEUE: a SPAWN's record reaches its die, after the older records of its stream and route (R239); the token is
done. One refused by its list gives its spawner ILLEGAL with L, and one whose region has ended is discarded (R249, R265, R297). -/
def execRecordEnqueue (d : BitVec 2) (id : Nat) (s : State) : Result :=
  .next (match s.net.find? (fun p => p.id = id) with
    | none => s
    | some p =>
      match p.cargo with
      | .record e v =>
        if e ≠ d || p.landed || !firstOfLane s p || Config.dispatchRecords ≤ (s.die d).disp.length then s
        else
          let s := if dieOf p.src = d.toNat then dropPacket s id else setLanded s id
          let t := parseTrec v
          match s.region (t.target p.head.rid) with
          | none => finishE s p.head false
          | some r =>
            if r.phase = .ending then finishE s p.head false
            else
              let (bad, s) := enqueueRecord s d r v (some p.src)
              match bad with
              | some l => finishE (engineReport s p.src p.head cILLEGAL (BitVec.ofNat 64 (l % 2 ^ 48))) p.head true
              | none => finishE s p.head false
      | _ => s)

/-! ### Free slots and the order (R36 to R39) -/

/-- Are a region's tasks placed: live, no manifest range still to be hashed, and no page digest at it or an ancestor
(R262, R304, R305)? -/
def placing (s : State) (r : Region) : Bool :=
  r.phase = .live && (s.ancestry r.rid).all (fun q => !q.digest) &&
    (match r.manifest with
      | some m => s.manifests.all (fun x => x.id ≠ m || x.recs.length ≥ x.ranges.length)
      | none => true)

/-- Did a task leave slot k of core n by an EXIT in this clock? The slot is free from the clock after (R43). -/
def leftNow (s : State) (n k : Nat) : Bool := (s.core n).ended.any (fun t => t.life.left = k && t.life.leftAt = s.sched.clock)

/-- Is slot k of core n free for tasks of a region (R39, R43, R49, R283)? -/
def slotFree (s : State) (r : Region) (n k : Nat) : Bool :=
  k < 7 && (s.thread n k).isNone && !leftNow s n k && !(s.core n).blocked && present s n && (!r.timed || r.tslots.getLsbD k) &&
    s.regions.all (fun q => !(q.timed && q.cores.contains n && q.tslots.getLsbD k) || (r.timed && s.within q.rid r.rid))

/-- The occupied user slots of a core: one that a task left in this clock is not free yet (R39, R43). -/
def occupied (s : State) (n : Nat) : Nat := ((List.range 7).filter (fun k => (s.thread n k).isSome || leftNow s n k)).length

/-- Effective priority (R36). -/
def effPrio (s : State) (r : Region) (e : Entry) : Nat :=
  let base := basePrio r (parseTrec e.trec)
  if r.aging = 0 then base
  else min 15 (base + min 4 ((s.sched.clock - e.ready.getD s.sched.clock) / r.aging))

/-- Is record a placed before record b: priority, readiness, enqueue order (R37)? -/
def outranks (a b : Nat × Entry) : Bool :=
  b.1 < a.1 || (a.1 = b.1 && (a.2.ready.getD 0 < b.2.ready.getD 0 || (a.2.ready = b.2.ready && a.2.order < b.2.order)))

/-- Insert a record by rank. -/
def insertRank (x : Nat × Entry) (l : List (Nat × Entry)) : List (Nat × Entry) :=
  match l with
  | [] => [x]
  | y :: r => if outranks x y then x :: y :: r else y :: insertRank x r

/-- The ready records of a die with their effective priorities, in the order of R37. A saved thread of a region that parks
is placed again, since it runs on to its EXIT (R192, R262). -/
def ranked (s : State) (d : BitVec 2) : List (Nat × Entry) :=
  ((s.die d).disp.filterMap (fun e =>
    match s.region e.rid with
    | some r => if e.ready.isSome && e.waiting.isNone && (placing s r || (e.saved.isSome && r.phase = .parking)) then some (effPrio s r e, e) else none
    | none => none)).foldl (fun l x => insertRank x l) []

/-- The members of a record's gang, 1 for a single task or a saved thread. -/
def entrySize (e : Entry) : Nat := if e.saved.isSome then 1 else (parseTrec e.trec).members

/-! ### Gangs (R40, R41) -/

/-- The spans of a region's gang rows on a die for gangs of g: their first cores, ascending (R40). -/
def spansOf (s : State) (r : Region) (d : BitVec 2) (g : Nat) : List Nat :=
  ((r.rows.filter (fun w => w / 24 = d.toNat)).map (fun w => (List.range (32 / g)).map (fun i => w * 32 + i * g))).flatten.filter
    (fun b => (List.range g).all (fun i => present s (b + i) && r.cores.contains (b + i)))

/-- The occupied slots of a span. -/
def spanLoad (s : State) (b g : Nat) : Nat := sumList ((List.range g).map (fun i => occupied s (b + i)))

/-- The span with the fewest occupied slots, the first of those. -/
def bestSpan (s : State) (g : Nat) (l : List Nat) : Option Nat :=
  l.foldl (fun acc b =>
    match acc with
    | some a => if spanLoad s b g < spanLoad s a g then some b else some a
    | none => some b) none

/-- The eligible spans of a gang record: those whose cores its placement admits (R26, R40). -/
def entrySpans (s : State) (r : Region) (d : BitVec 2) (e : Entry) : List Nat :=
  let t := parseTrec e.trec
  let ok := eligible r t e.spawner
  (spansOf s r d t.members).filter (fun b => (List.range t.members).all (fun i => ok.contains (b + i)))

/-- A slot number free on every core of a span: SPREF, or the lowest (R39, R40). -/
def spanSlot (s : State) (r : Region) (t : Trec) (b : Nat) : Option Nat :=
  let free (k : Nat) : Bool := (List.range t.members).all (fun i => slotFree s r (b + i) k)
  if free t.spref then some t.spref else (List.range 7).find? free

/-- The cores that pressing gangs of a die hold against a record of an effective priority (R41). -/
def pressed (s : State) (d : BitVec 2) (id p : Nat) : List Nat :=
  ((ranked s d).filter (fun x => x.2.press && x.2.id ≠ id && p ≤ x.1)).map (fun x =>
    match s.region x.2.rid with
    | none => []
    | some r =>
      let g := (parseTrec x.2.trec).members
      match bestSpan s g (spansOf s r d g) with
      | some b => (List.range g).map (fun i => b + i)
      | none => []) |>.flatten

/-! ### Choosing a place -/

/-- Where a record goes: first core, slot, members. -/
structure Spot1 where
  core : Nat
  slot : Nat
  size : Nat
  deriving DecidableEq, Repr

/-- The core with the fewest occupied slots, the lowest VCN of those (R39). -/
def bestCore (s : State) (l : List Nat) : Option Nat :=
  l.foldl (fun acc n =>
    match acc with
    | some a => if occupied s n < occupied s a then some n else some a
    | none => some n) none

/-- The place of a deterministic record: its list's core and slot, once the tasks before it have exited; a pressing
gang's span is shut to it as to any other (R41, R297). -/
def detPlace (s : State) (r : Region) (t : Trec) (shut : List Nat) : Option Spot1 :=
  let n := r.cores.length
  let list := detList n t.logical
  let k := t.logical / n % 7
  match coreOfVcn r (t.logical % n) with
  | some c =>
    if assocGet r.detNext list 0 = detPos n t.logical && !r.detRun.any (fun e => e.1 = list) && slotFree s r c k &&
        !shut.contains c then
      some ⟨c, k, 1⟩
    else none
  | none => none

/-- The place of a single task; SPREF of a deterministic one is ignored (R39, R296). -/
def singlePlace (s : State) (r : Region) (e : Entry) (shut : List Nat) : Option Spot1 :=
  let t := parseTrec e.trec
  let cores := (eligible r t e.spawner).filter (fun n => !shut.contains n && (List.range 7).any (slotFree s r n))
  match bestCore s cores with
  | none => none
  | some n =>
    let k := if !r.det && slotFree s r n t.spref then some t.spref else (List.range 7).find? (slotFree s r n)
    k.map (fun k => ⟨n, k, 1⟩)

/-- The place of a gang (R40). -/
def gangSpot (s : State) (r : Region) (d : BitVec 2) (e : Entry) (shut : List Nat) : Option Spot1 :=
  let t := parseTrec e.trec
  let spans := (entrySpans s r d e).filter (fun b =>
    (List.range t.members).all (fun i => !shut.contains (b + i)) && (spanSlot s r t b).isSome)
  match bestSpan s t.members spans with
  | none => none
  | some b => (spanSlot s r t b).map (fun k => ⟨b, k, t.members⟩)

/-- The place of a ready record of a die, if it has one now (R37 to R41, R297). -/
def entryPlace (s : State) (d : BitVec 2) (x : Nat × Entry) : Option Spot1 :=
  match s.region x.2.rid with
  | none => none
  | some r =>
    let shut := pressed s d x.2.id x.1
    if x.2.saved.isSome then singlePlace s r x.2 shut
    else if r.det then detPlace s r (parseTrec x.2.trec) shut
    else if 1 < entrySize x.2 then gangSpot s r d x.2 shut
    else singlePlace s r x.2 shut

/-- The first record in rank that has a place in this clock (R38). -/
def placeChoice (s : State) (d : BitVec 2) : Option (Entry × Spot1) :=
  (ranked s d).findSome? (fun x => (entryPlace s d x).map (fun p => (x.2, p)))

/-! ### The placed thread (R28, R89, R93) -/

/-- x, y, v, p and m at a first issue (R28, R93). -/
def startRegs (arg seq : Word) (c0 c1 c2 : BitVec 16) (member : Nat) : Regs :=
  let x2 : Word := BitVec.ofNat 64 (c0.toNat + 2 ^ 16 * c1.toNat + 2 ^ 32 * c2.toNat + 2 ^ 48 * member)
  { x := ((((Vector.replicate 32 0).set 1 arg).set 2 x2).set 3 seq), y := Vector.replicate 32 0, v := Vector.replicate 24 0
    p := (Vector.replicate 8 false).set 0 true, m := (Vector.replicate 8 0).set 0 (BitVec.allOnes 64) }

/-- THS at a task's start: DET and TIMED (R87, R93). -/
def startThs (tflags : BitVec 16) : Word :=
  (if tflags.getLsbD 0 then 4 else 0) ||| (if tflags.getLsbD 1 then 8 else 0)

/-- Nothing in the pipelines; the slot fetches from a clock of its core on. -/
def Pipe.fresh (fetchAt : Nat) : Pipe := ⟨[], [], 0, 0, [], .none, fetchAt, [], none, none, 0, [], 0⟩

/-- A life not yet begun. -/
def Life.fresh : Life := ⟨false, false, false, none, false, false, false, 0, 0, 0, false, none, 0, 0⟩

/-- A new thread of a record (R28, R93). -/
def newThread (tid : Nat) (rid : BitVec 16) (v : Vec) (t : Trec) (by' : Option Nat) (seq : Word) (vcn : BitVec 16)
    (member size base fetchAt : Nat) : Thread :=
  { tid := tid
    task := ⟨rid, seq, t.entry, t.c0, t.c1, t.c2, t.tflags, t.arg, vcn, member, size, base, v, by'⟩
    regs := startRegs t.arg seq t.c0 t.c1 t.c2 member
    ctl := ⟨t.entry, startThs t.tflags, 0, 0, 0, 0, 0, 0⟩
    pipe := Pipe.fresh fetchAt, life := Life.fresh, tok := Vector.replicate 8 .free, orderQ := [], qno := [], qev := []
    reports := [] }

/-- A core is handed to a region: with no task running, the last one of another region, MXCFG is reset; the layout unit
drops an untimed region's copies (R89, R202). -/
def handCore (s : State) (n : Nat) (r : Region) : State :=
  let idle := (s.core n).slots.toList.all (fun t => t.isNone)
  s.modCore n (fun c => { c with
    eng := if idle && c.owner ≠ some r.rid then { c.eng with mxcfg := Engine.reset.mxcfg } else c.eng
    cache := if r.timed then c.cache else { c.cache with held := c.cache.held.filter (fun h => h.rid ≠ r.rid) }
    owner := some r.rid })

/-- The clock of a core from which a slot fetches its first bundle: within the 32 clocks of R44 (log entry 5). -/
def placeFetch (s : State) (n : Nat) : Nat × State :=
  let s := s.tickFresh
  (s.coreClock n + 1 + Config.delay s.sched.fresh % 32, s)

/-- Place one task. -/
def placeThread (s : State) (r : Region) (n k : Nat) (v : Vec) (t : Trec) (by' : Option Nat) (seq : Word)
    (member size base fetchAt : Nat) : State :=
  let s := handCore s n r
  let (tid, s) := s.newId
  s.setThread n k (some (newThread tid r.rid v t by' seq (BitVec.ofNat 16 (vcnOf r n)) member size base fetchAt))

/-- A thread from its saved context: it fetches again, and its results in flight count from the turn in which it issues; no
line of its core's read cache is older than what it saw where it stood before (R192, R223, R258). -/
def resumeThread (s : State) (n k : Nat) (t : Thread) (fetchAt : Nat) : State :=
  (acquireDone s n).setThread n k (some { t with
    pipe := { t.pipe with fetchAt := fetchAt }
    life := { t.life with saving := none, faulted := none, resuming := true } })

/-- Place a record: a saved thread, one task, or a whole gang at consecutive cores (R23, R38, R40, R192). -/
def placeEntry (s : State) (d : BitVec 2) (e : Entry) (p : Spot1) : State :=
  match s.region e.rid with
  | none => s
  | some r =>
    let s := (dropEntry s d e.id).modDie d (fun x => { x with placed := some s.sched.clock })
    let (f, s) := placeFetch s p.core
    match e.saved with
    | some t =>
      let s := resumeThread (handCore s p.core r) p.core p.slot t f
      recordThread s p.core p.slot 0x0B 1 t t.ctl.pc
    | none =>
      let t := parseTrec e.trec
      let s := (List.range p.size).foldl (fun s i =>
        placeThread s r (p.core + i) p.slot e.trec t e.spawner (e.seq + BitVec.ofNat 64 i) i p.size p.core f) s
      if r.det then
        let list := detList r.cores.length t.logical
        let tid := match s.thread p.core p.slot with | some u => u.tid | none => 0
        s.modRegion r.rid (fun r => { r with
          detNext := assocSet r.detNext list (detPos r.cores.length t.logical + 1), detRun := r.detRun ++ [(list, tid)] })
      else s

/-- A die's choice in this clock, unless it has placed a record in it (R38). -/
def placeNow (s : State) (d : BitVec 2) : Option (Entry × Spot1) :=
  if (s.die d).placed = some s.sched.clock then none else placeChoice s d

/-- TASK_PLACE: the die's choice in this clock, when it is one task (R38, R39). -/
def execTaskPlace (d : BitVec 2) (s : State) : Result :=
  .next (match placeNow s d with
    | some (e, p) => if p.size = 1 then placeEntry s d e p else s
    | none => s)

/-- GANG_PLACE: the die's choice in this clock, when it is a gang (R38, R40). -/
def execGangPlace (d : BitVec 2) (s : State) : Result :=
  .next (match placeNow s d with
    | some (e, p) => if 1 < p.size then placeEntry s d e p else s
    | none => s)

/-- Does a ready gang stand first at its effective priority (R41)? -/
def standsFirst (l : List (Nat × Entry)) (x : Nat × Entry) : Bool :=
  1 < entrySize x.2 && (match l.find? (fun y => y.1 = x.1) with | some y => y.2.id = x.2.id | none => false)

/-- Since when each gang of a die has stood first (R41). -/
def noteFirst (s : State) (d : BitVec 2) : State :=
  if !((s.die d).disp.any (fun e => 1 < entrySize e)) then s
  else
    let l := ranked s d
    l.foldl (fun s x => modEntry s d x.2.id (fun e => { e with
      first := if standsFirst l x then some (e.first.getD s.sched.clock) else none })) s

/-- The aging interval after which a first gang presses (R41). -/
def pressAfter (s : State) (rid : BitVec 16) : Nat :=
  match s.region rid with | some r => if r.aging = 0 then 4096 else r.aging | none => 4096

/-- Has a gang stood first for its interval? -/
def pressDue (s : State) (e : Entry) : Bool :=
  !e.press && (match e.first with | some c => c + pressAfter s e.rid ≤ s.sched.clock | none => false)

/-- GANG_PRESSING (R41). A gang goes on pressing until it is placed, also when another record of its effective priority comes to
stand before it (DESIGN CHOICE: R41 says when a gang becomes pressing and not when it ceases; log entry 54). -/
def execGangPressing (d : BitVec 2) (s : State) : Result :=
  .next (s.modDie d (fun x => { x with disp := x.disp.map (fun e => if pressDue s e then { e with press := true } else e) }))

/-- TASK_START: at the first issue the task's TASKSTART is written, and the acquire of a task's start completes (R93, R211, R274);
its starting state stands since its placement. -/
def execTaskStart (core slot : Nat) (s : State) : Result :=
  .next (match s.thread core slot with
    | some t =>
      if t.life.started then s
      else
        let s := acquireDone (s.setThread core slot (some { t with life := { t.life with started := true } })) core
        recordThread s core slot 0x01 (t.task.seq.toNat % 2 ^ 21) t t.task.entry
    | none => s)

/-! ### Kernel boundaries (R295, R303) -/

/-- The E instructions of a core that are not complete. -/
def openHeads (c : Core) : List EHead :=
  c.eng.queue.map (fun q => q.head) ++ (match c.eng.run with | some r => [r.head] | none => []) ++ c.eng.rds.map (fun r => r.head) ++
    c.net.jobs.map (fun j => j.head) ++ c.net.router.next.map (fun e => e.2)

/-- Is a region with its descendants at rest: no task anywhere, no E instruction, no access or load, no armed Ringmaster
entry, nor a task or an E instruction in an image (R295)? -/
def restful (s : State) (root : BitVec 16) : Bool :=
  let mine (rid : BitVec 16) : Bool := s.within root rid
  s.regions.all (fun r => r.evicted.all (fun e =>
    (coreThreads e.2).all (fun t => !mine t.task.rid) && (openHeads e.2).all (fun h => !mine h.rid))) &&
  s.cores.all (fun c =>
    (coreThreads c.2).all (fun t => !mine t.task.rid || (c.2.ended.any (fun u => u.tid = t.tid) && t.orderQ.isEmpty &&
      !c.2.net.misses.any (fun m => m.tid = t.tid))) && (openHeads c.2).all (fun h => !mine h.rid)) &&
  s.net.all (fun p => !mine p.head.rid) && s.snet.all (fun p => p.out || !mine p.head.rid) &&
  s.dies.toList.all (fun d => d.disp.all (fun e => !mine e.rid) && d.rm.all (fun e => !(e.2.ctl.getLsbD 7 && mine e.2.rid)))

/-- The open manifest of a region. -/
def openManifest (s : State) (rid : BitVec 16) : Option Manifest := s.manifests.find? (fun m => m.rid = rid && !m.closed)

/-- KERNEL_BOUNDARY: deterministic lists restart, and digesting of the marked pages begins (R295, R297, R303, R304). -/
def execKernelBoundary (rid : BitVec 16) (s : State) : Result :=
  .next (match s.region rid with
    | some r =>
      if r.phase = .ending || r.atRest || !restful s rid then s
      else s.modRegion rid (fun r => { r with
        atRest := true, restAt := s.gtime, detNext := [], digest := (openManifest s rid).isSome })
    | none => s)

/-! ### The Ringmaster (R46, R71 to R73) -/

/-- A Ringmaster entry after reset (log entry 2). -/
def RmEntry.reset : RmEntry := ⟨0, 0, 0, 0, 0, 0, 0, 0, 0⟩

/-- Entry e of a die's table. -/
def rmGet (s : State) (d : BitVec 2) (e : BitVec 8) : RmEntry := assocGet (s.die d).rm e.toNat RmEntry.reset

/-- Change an entry. -/
def rmMod (s : State) (d : BitVec 2) (e : BitVec 8) (f : RmEntry → RmEntry) : State :=
  s.modDie d (fun x => { x with rm := assocSet x.rm e.toNat (f (rmGet s d e)) })

/-- The next due time of an armed entry (R73). -/
def rmDue (x : RmEntry) : Nat := x.start.toNat + x.n * x.period.toNat

/-- The entry's next due time, or its end after a one-shot (R73). -/
def rmAdvance (x : RmEntry) : RmEntry := if x.period = 0 then { x with ctl := x.ctl &&& 0x7F } else { x with n := x.n + 1 }

/-- The due times already past: the next index, and whether the entry stays armed (R73). A due time of this clock is not
past. -/
def armStart (s : State) (x : RmEntry) : RmEntry :=
  let before := (s.sched.g3 - 80) / 3
  if s.sched.g3 < 80 || before < rmDue x then x
  else if x.period = 0 then { x with stat := x.stat ||| 2, ctl := x.ctl &&& 0x7F }
  else { x with stat := x.stat ||| 2, n := (before - x.start.toNat) / x.period.toNat + 1 }

/-- A launch is skipped (R73). -/
def rmSkip (s : State) (d : BitVec 2) (e : BitVec 8) : State :=
  let s := rmMod s d e (fun x => rmAdvance { x with stat := x.stat ||| 2 })
  recordDie s d 0x1B (s.tagOf (rmGet s d e).rid) (BitVec.ofNat 82 (e.toNat * 2 ^ 74 + 2 ^ 73))

/-- The entry after a launch that may have waited for its record's page: due times that passed meanwhile are left out, with SKIP and
one record (R73; log entry 55). -/
def rmResume (s : State) (d : BitVec 2) (e : BitVec 8) : State :=
  let x := rmAdvance (rmGet s d e)
  let y := if x.period = 0 then x else armStart s x
  let s := rmMod s d e (fun _ => y)
  if y.n = x.n then s else recordDie s d 0x1B (s.tagOf x.rid) (BitVec.ofNat 82 (e.toNat * 2 ^ 74 + 2 ^ 73))

/-- The cores of an entry's set in a region (R71). -/
def rmCores (r : Region) (x : RmEntry) : List Nat := (List.range x.vcnn.toNat).filterMap (fun i => coreOfVcn r (x.vcn0.toNat + i))

/-- Does an entry's launch wait for the translation of its record's page (R46, R187)? -/
def rmWaits (s : State) (d : BitVec 2) (x : RmEntry) : Bool :=
  match s.region x.rid with
  | some r => r.phase = .live && placing s r && (watchSpot s d r.pasid x.trec).isNone
  | none => false

/-- The record of an entry, read under its region's PASID as its die translates; none where its page may not be read. -/
def rmRecord (s : State) (d : BitVec 2) (r : Region) (a : Word) : Option Vec :=
  match watchSpot s d r.pasid a with
  | some e => if e.t.r && !reservedKey (xlateKey e.t a.toNat) then some (BitVec.ofNat 512 (Memory.readLE (soundMem s) (xlateKey e.t a.toNat) 64)) else none
  | none => none

/-- Is a record valid for a launch into a region: valid under R27, with no die that receives it, a single task, its TRID the armed
region (R46, R72; log entry 55)? -/
def rmValid (r : Region) (t : Trec) : Bool :=
  (trecFields t).isNone && (trecRegion r t (namedCores r t none)).isNone && t.gsize = 0 && t.trid = r.rid

/-- The launch of one task per core (R46, R73). -/
def rmPlace (s : State) (r : Region) (v : Vec) (t : Trec) (k : Nat) (cores : List Nat) : State :=
  let s := leaveRest (writeSeqn s r (r.seqn + BitVec.ofNat 64 cores.length)) r.rid
  let s := s.modRegion r.rid (fun q => { q with seqn := r.seqn + BitVec.ofNat 64 cores.length })
  cores.zipIdx.foldl (fun s c =>
    let (f, s) := placeFetch s c.1
    placeThread s r c.1 k v { t with c0 := t.c0 + BitVec.ofNat 16 c.2 } none (r.seqn + BitVec.ofNat 64 c.2) 0 1 c.1 f) s

/-- RINGMASTER_LAUNCH: at its due tick an armed entry launches, skips, or faults TIMING (R46, R72, R73). An entry whose record's
page is not translated stays due until it is, and the due times that pass meanwhile are left out; one that comes due while placement of its region holds cannot be taken, and is
skipped (R73, R304; log entry 55). -/
def execRingmasterLaunch (d : BitVec 2) (e : BitVec 8) (s : State) : Result :=
  .next (let x := rmGet s d e
    if !x.ctl.getLsbD 7 || s.gtime < rmDue x then s
    else
      match s.region x.rid with
      | none => rmSkip s d e
      | some r =>
        if r.phase ≠ .live || !placing s r then rmSkip s d e
        else if rmWaits s d x then askXlate s (d.toNat * 768) r.pasid x.trec.toNat
        else
          let s := match watchSpot s d r.pasid x.trec with
            | some e => noteRead s (.die d) 0 none (xlateKey e.t x.trec.toNat) 64
            | none => s
          let k := (x.ctl.extractLsb' 0 3).toNat
          let cores := rmCores r x
          let fail (s : State) : State := fatalUnit (rmMod s d e rmAdvance) d 1 r.rid cTIMING 0
          match rmRecord s d r x.trec with
          | none => fail (recordDie s d 0x11 r.tag (faultForm x.trec false false 0))
          | some v =>
            let t := parseTrec v
            let ok := rmValid r t && r.timed && r.tslots.getLsbD k && cores.length = x.vcnn.toNat &&
              cores.all (fun n => slotFree s r n k)
            if !ok then fail s
            else
              let s := recordDie (rmPlace s r v t k cores) d 0x1B r.tag (BitVec.ofNat 82 (e.toNat * 2 ^ 74))
              rmResume s d e)

end Sys2Proof.Machine
end

