-- ==== Sys2Proof/Machine/Starts.lean ====
section
/-! DEFINITION. The start of a region: the RCB, its checks, the core set, the tag, and run manifests as they open
(R15 to R22, R44, R254, R272, R303 to R305, R312, R464). -/

namespace Sys2Proof.Machine

/-! ### What the device reads for itself (R187, R194, R312) -/

/-- The first translation of an address that a die holds. -/
def devXlate (s : State) (pasid : BitVec 20) (va : Nat) : Option TlbEntry :=
  s.dies.toList.findSome? (fun d => d.tlb.find? (fun e => covers e.t pasid va))

/-- A device read of n bytes inside a page: the key, or the page to ask for. -/
def devKey (s : State) (pasid : BitVec 20) (p : Perm) (va : Nat) : Except Stop Nat :=
  match devXlate s pasid va with
  | none => .error (.ask (BitVec.ofNat 64 va) false)
  | some e =>
    let key := xlateKey e.t va
    if reservedKey key then .error (.fail .page cXLATE (BitVec.ofNat 64 va))
    else if !p.granted e.t then .error (.ask (BitVec.ofNat 64 va) true)
    else .ok key

/-- XLATEFAULT of a read, or a write, of the device's own, with the tag of its region (R274). -/
def recordFault (s : State) (va : Word) (write : Bool) (tag : BitVec 13) : State :=
  recordDie s 0 0x11 tag (faultForm va false write 0)

/-- Ask for a page that the device needs; a fault is recorded, and asks the host to make it resident (R194, R274). -/
def devAsk (s : State) (pasid : BitVec 20) (va : Word) (fault write : Bool) (tag : BitVec 13) : Option Nat × State :=
  if fault then
    let s := recordFault s va write tag
    let (id, s) := askPage (dropXlate s pasid va.toNat) 0 pasid va.toNat none
    (some id, s)
  else (none, askXlate s 0 pasid va.toNat)

/-- The device reads n bytes at a key: the unit is of the die where they lie, and an injected error of theirs is found (R267). -/
def devRead (s : State) (key n : Nat) : State := noteRead s (.die (BitVec.ofNat 2 (homeSlice key / 8))) 0 none key n

/-- The device reads n bytes of its own need: their soft errors are found, and a page that may not be read is recorded, when
no request of it is made (R267, R274). -/
def devNote (s : State) (pasid : BitVec 20) (va n : Nat) (tag : BitVec 13) (asks : Bool) : State :=
  match devKey s pasid .r va with
  | .ok key => devRead s key n
  | .error (.ask va fault) => if fault && !asks then recordFault s va false tag else s
  | .error _ => recordFault s (BitVec.ofNat 64 va) false tag

/-- The device reads the bytes from `va` up to `stop`, page by page, until a page is still to be translated or cannot be read. -/
def devNotes (s : State) (pasid : BitVec 20) (va stop : Nat) (tag : BitVec 13) : State :=
  let parts := (List.range ((stop + 4095) / 4096 - va / 4096)).map (fun i => max va ((va / 4096 + i) * 4096))
  let good := parts.takeWhile (fun a => (devKey s pasid .r a).isOk)
  (parts.take (good.length + 1)).foldl (fun s a => devNote s pasid a (min stop (a / 4096 * 4096 + 4096) - a) tag false) s

/-- Do n bytes at a key meet a line with an uncorrectable error (R266)? -/
def poisonedAt (s : State) (key n : Nat) : Bool := s.poison.any (fun l => l < key + n && key < l + 64)

/-- The PASID of a tenant: its valid TENBIND entry (R312). -/
def tenantPasid (s : State) (tenant : BitVec 16) : Option (BitVec 20) :=
  (s.bar.tenbind.toList.find? (fun w => w.getLsbD 63 && w.extractLsb' 0 16 = tenant)).map (fun w => w.extractLsb' 32 20)

/-- VFBIND of a virtual function. -/
def vfBind (s : State) (n : BitVec 4) : Word := (s.bar.vfbind[n.toNat]?).getD 0

/-! ### The RCB (R16, R17) -/

/-- The fields of an RCB. -/
structure Rcb where
  fmt : Nat
  ovr : BitVec 16
  rid : BitVec 16
  tenant : BitVec 16
  parent : Nat
  prio : Nat
  flags : Nat
  gpart : Nat
  tslots : Nat
  ncores : Nat
  grows : Nat
  policy : Nat
  quota : Nat
  aging : Nat
  ttab : Nat
  pool : Word
  pooln : Nat
  exitc : Nat
  root : Nat
  zeros : Bool
  deriving DecidableEq, Repr

/-- An RCB from its bytes (R16). -/
def parseRcb (b : List Byte) : Rcb :=
  let u (i n : Nat) : Nat := leValue ((b.drop i).take n)
  { fmt := u 0 2, ovr := BitVec.ofNat 16 (u 2 2), rid := BitVec.ofNat 16 (u 4 2), tenant := BitVec.ofNat 16 (u 6 2)
    parent := u 8 8, prio := u 16 1, flags := u 17 1, gpart := u 18 1, tslots := u 19 1, ncores := u 20 2, grows := u 22 1
    policy := u 23 1, quota := u 24 8, aging := u 32 4, ttab := u 36 4, pool := BitVec.ofNat 64 (u 40 8), pooln := u 48 4
    exitc := u 52 4, root := u 56 8, zeros := ((b.drop 64).take 64).all (fun x => x = 0) }

/-- Does the RCB override a group (R17)? -/
def Rcb.own (c : Rcb) (g : Nat) : Bool := c.ovr.getLsbD g

/-- What the device finds of an RCB at an address under a PASID that is bound to a tenant. -/
inductive RcbLook
  | fits
  | other
  | walk
  | fault
  | away
  deriving DecidableEq, Repr

/-- Read the RCB under a TENBIND entry: it names the entry's tenant, or something else that has the format of an RCB, or its
page is not translated, or the host has still to make it resident, or nothing of an RCB is there. -/
def lookRcb (s : State) (a : Nat) (w : Word) : RcbLook :=
  match devKey s (w.extractLsb' 32 20) .r a with
  | .error (.ask _ false) => .walk
  | .error (.ask _ true) => .fault
  | .error _ => .away
  | .ok key =>
    let c := parseRcb (Memory.readBytes s.mem key 256)
    let t : BitVec 16 := if c.own 0 then c.tenant else
      match s.regions.find? (fun r => r.rcbVa = c.parent && c.parent ≠ 0) with | some r => r.tenant | none => 0
    if t = w.extractLsb' 0 16 then .fits else if c.fmt = 1 then .other else .away

/-- The bound tenant under which an RCB is found in one of some ways, the first way first; tenants whose page could not be had
are left out. -/
def rcbUnder (s : State) (f : Fn) (a : Nat) (ways : List RcbLook) : Option Word :=
  let bound := s.bar.tenbind.toList.filter (fun w => w.getLsbD 63 && !(s.fnRegs f).startTried.contains (w.extractLsb' 32 20))
  ways.findSome? (fun k => bound.find? (fun w => lookRcb s a w = k))

/-- The PASID under which an RCB is read. Through a virtual function it is that of its tenant, and PASID 0 where no TENBIND entry
binds that tenant. Through the physical function it is that of the bound tenant under which the bytes name that tenant;
while none is found, that of one whose page is still to be translated or made resident, of one under which another RCB stands,
or of the first that is bound; PASID 0 where none is (R20, R312; DESIGN CHOICE where no rule names the tenant before the RCB
is read; log entry 15). -/
def rcbPasid (s : State) (f : Fn) (a : Nat) : BitVec 20 :=
  match f with
  | .vf n => (tenantPasid s ((vfBind s n).extractLsb' 0 16)).getD 0
  | .pf =>
    match rcbUnder s f a [.fits, .walk, .fault, .other, .away] with
    | some w => w.extractLsb' 32 20
    | none => 0

/-- The live region that an RCB names as its parent; `none` inside for the device, none outside where it names none. A region
whose fault domain has begun to end is not live here, though its STATE still reads 1 (DESIGN CHOICE: R21 does not say when it
ceases to be live; log entry 56) (R20, R312). -/
def parentOf (s : State) (f : Fn) (c : Rcb) (pasid : BitVec 20) : Option (Option Region) :=
  if c.parent = 0 then
    match f with
    | .pf => some none
    | .vf n =>
      let w := vfBind s n
      match s.region (w.extractLsb' 32 16) with
      | some r => if r.tenant = w.extractLsb' 0 16 && r.phase ≠ .ending then some (some r) else none
      | none => none
  else
    match s.regions.find? (fun r => r.rcbVa = c.parent && r.pasid = pasid && r.phase ≠ .ending) with
    | some r => some (some r)
    | none => none

/-- Resolved fields of a start before its cores are chosen (R17, R464). -/
def resolve (s : State) (c : Rcb) (p : Option Region) : Region :=
  let inh {α : Type} (g : Nat) (mine : α) (f : Region → α) (dev : α) : α :=
    if c.own g then mine else match p with | some r => f r | none => dev
  { rid := c.rid, parent := match p with | some r => r.rid | none => 0xFFFF
    depth := match p with | some r => r.depth + 1 | none => 1
    rcb := 0, rcbVa := 0, pasid := 0, fn := match p with | some r => r.fn | none => .pf, via := .pf
    tenant := inh 0 c.tenant (fun r => r.tenant) 0
    prio := inh 1 (c.prio % 16) (fun r => r.prio) 0
    timed := inh 2 (c.flags % 2 = 1) (fun r => r.timed) false
    det := inh 2 (c.flags / 2 % 2 = 1) (fun r => r.det) false
    rclass := inh 2 (BitVec.ofNat 2 (c.flags / 4)) (fun r => r.rclass) 0
    fdr := c.flags / 16 % 2 = 1
    gpart := inh 3 (BitVec.ofNat 3 c.gpart) (fun r => r.gpart) 0
    tslots := inh 4 (BitVec.ofNat 7 c.tslots) (fun r => r.tslots) 0
    own := c.own 5
    cores := match p with | some r => r.cores | none => (List.range 3072).filter (present s)
    rows := match p with | some r => r.rows | none => []
    ncores := inh 5 c.ncores (fun r => r.ncores) ((List.range 3072).filter (present s)).length
    grows := inh 5 c.grows (fun r => r.grows) 0
    policy := inh 5 c.policy (fun r => r.policy) 0
    quota := if c.own 6 then some c.quota else none
    aging := inh 7 c.aging (fun r => r.aging) 0
    tfirst := inh 8 (c.ttab % 4096) (fun r => r.tfirst) 0
    tcount := inh 8 (c.ttab / 4096 % 8192) (fun r => r.tcount) 4096
    pool := inh 9 c.pool (fun r => r.pool) 0
    pooln := inh 9 (c.pooln % 2 ^ 20) (fun r => r.pooln) 0
    ownPool := c.own 9
    exitc := c.exitc % 2 ^ 20, hvec := match p with | some r => r.hvec | none => 0
    seqn := 0, tag := 0, started := 0, phase := .live, manifest := none, detNext := [], detRun := [], atRest := false, restAt := 0, digest := false
    cause := none, causev := 0, endNow := false, closing := none, taken := [], area := 0, seals := [], evicted := [] }

/-- Check 1 of R21. Two points are the model's own (DESIGN CHOICE; log entry 56): a POOL with any of bits [63:48] set is refused,
where R16 asks for alignment and bit 47 = 0; and a GROWS that is not 0 with the GPART inherited from a PARENT that names no
region is refused here, since that GPART is taken as 0, and not as NOPARENT. -/
def rcbBad (a : Word) (c : Rcb) (p : Option Region) (r : Region) : Bool :=
  a.getLsbD 47 || c.fmt ≠ 1 || !c.zeros || c.ovr.toNat / 2 ^ 10 ≠ 0 || c.rid = 0 || c.rid = 0xFFFF ||
    16 ≤ c.prio || 32 ≤ c.flags || 8 ≤ c.gpart || 128 ≤ c.tslots || 2 ^ 25 ≤ c.ttab || 2 ^ 20 ≤ c.pooln || 2 ^ 20 ≤ c.exitc ||
    c.root % 64 ≠ 0 || (c.own 2 && c.flags / 4 % 4 = 3) || (c.own 3 && 5 ≤ c.gpart) ||
    (c.own 5 && (c.ncores = 0 || 3072 < c.ncores || 96 < c.grows || 2 ≤ c.policy || (r.gpart = 0 && c.grows ≠ 0))) ||
    (c.own 8 && (4096 < c.ttab / 4096 || 4096 < c.ttab % 4096 + c.ttab / 4096)) ||
    (c.own 9 && (c.pool.toNat % 64 ≠ 0 || 2 ^ 47 ≤ c.pool.toNat || c.pooln = 0)) ||
    (!c.own 9 && p.isNone) || (r.det && r.gpart ≠ 0)

/-! ### The core set (R22) -/

/-- Does a region hold its cores against its siblings: its own placement, and not switched out (R22, R262, R263)? -/
def holdsCores (r : Region) : Bool := r.own && r.phase ≠ .parked && r.phase ≠ .evicted

/-- The cores free for a child with its own placement of a parent; `but` is a region whose own hold does not count. A core
whose Cellar the Vault has still to copy takes no region (R22, R283; log entry 41). -/
def freeCores (s : State) (p : Option Region) (parent but : BitVec 16) : List Nat :=
  let mine := match p with | some r => r.cores | none => (List.range 3072).filter (present s)
  let held := ((s.regions.filter (fun r => r.parent = parent && r.rid ≠ but && holdsCores r)).map (fun r => r.cores)).flatten
  mine.filter (fun n => !held.contains n && !(s.core n).blocked)

/-- Has a row an aligned span of g present cores? -/
def rowHasSpan (s : State) (w g : Nat) : Bool := (List.range (32 / g)).any (fun i => (List.range g).all (fun j => present s (w * 32 + i * g + j)))

/-- The present cores of a row. -/
def rowCores (s : State) (w : Nat) : List Nat := ((List.range 32).map (fun c => w * 32 + c)).filter (present s)

/-- The gang rows that a start may take, ascending (R22). -/
def gangRows (s : State) (p : Option Region) (free : List Nat) (gpart : BitVec 3) : List Nat :=
  let anc := match p with | some r => s.ancestry r.rid | none => []
  (List.range 96).filter (fun w =>
    !(rowCores s w).isEmpty && rowHasSpan s w (2 ^ log2Gang gpart.toNat) && (rowCores s w).all (fun n => free.contains n) &&
      anc.all (fun q => !(q.own && q.rows.contains w) || q.gpart = gpart))

/-- One core of each die in turn, from die 0 (R22). -/
def spread (fuel : Nat) (l : List Nat) (d : Nat) : List Nat :=
  match fuel with
  | 0 => []
  | fuel + 1 =>
    match l.find? (fun n => dieOf n = d % 4) with
    | some n => n :: spread fuel (l.filter (fun m => m ≠ n)) (d + 1)
    | none => spread fuel l (d + 1)

/-- The core set and gang rows of a start with its own placement; none is NOSPACE (R22). -/
def chooseCores (s : State) (c : Rcb) (p : Option Region) (r : Region) : Option (List Nat × List Nat) :=
  let free := freeCores s p r.parent 0
  let rows := (gangRows s p free r.gpart).take c.grows
  let gang := (rows.map (rowCores s)).flatten
  let rest := free.filter (fun n => !gang.contains n)
  let more := c.ncores - gang.length
  let extra := if c.policy = 0 then rest.take more else (spread (4 * rest.length + 4) rest 0).take more
  if rows.length < c.grows || extra.length < more then none
  else some ((List.range 3072).filter (fun n => gang.contains n || extra.contains n), rows)

/-! ### Tags (R272) -/

/-- The next tag in rotation that no live region holds. -/
def nextTag (s : State) : Option (BitVec 13) :=
  ((List.range 8191).map (fun i => BitVec.ofNat 13 ((s.vault.lastTag.toNat + i) % 8191 + 1))).find?
    (fun t => !s.regions.any (fun r => r.tag = t))

/-- Keep the newest two assignments of a tag. -/
def keepTwo (l : List Assign) (a : Assign) : List Assign :=
  match (l.filter (fun x => x.tag = a.tag)).reverse with
  | x :: _ => l.filter (fun y => y.tag ≠ a.tag) ++ [x, a]
  | [] => l ++ [a]

/-! ### Budgets (R18, R21) -/

/-- The bytes of the frames that hold contexts of a region's saved threads (R192, R255). -/
def frameBytes (s : State) (rid : BitVec 16) : Nat :=
  4096 * sumList (s.dies.toList.map (fun d => (d.disp.filter (fun e => e.rid = rid && e.frame.isSome)).length))

/-- The bytes left of a region's quota, its own or that of the nearest ancestor with one, after what its children take and the
frames of the regions that draw on it; none is no limit (R18, R255). -/
def quotaLeft (s : State) (rid : BitVec 16) : Option Nat :=
  match (s.ancestry rid).find? (fun r => r.quota.isSome) with
  | none => none
  | some q =>
    let taken := s.regions.filter (fun r => r.quota.isSome && r.rid ≠ q.rid &&
      (((s.ancestry r.parent).find? (fun x => x.quota.isSome)).any (fun x => x.rid = q.rid)))
    let users := s.regions.filter (fun r => ((s.ancestry r.rid).find? (fun x => x.quota.isSome)).any (fun x => x.rid = q.rid))
    some (q.quota.getD 0 - sumList (taken.map (fun r => r.quota.getD 0)) - sumList (users.map (fun r => frameBytes s r.rid)))

/-- The valid LOCAL entries of a tensor range in a die's table (R202). -/
def localEntries (s : State) (d : BitVec 2) (r : Region) : List Nat :=
  match ttbaseOf s d with
  | none => []
  | some base => ((List.range r.tcount).map (fun i => r.tfirst + i)).filter (fun t =>
      let e := parseTensor (BitVec.ofNat 512 (Memory.readLE (soundMem s) (keyStack (base + 64 * t)) 64))
      e.valid && e.local')

/-- Check 7 of R21 fails. -/
def quotaBad (s : State) (c : Rcb) (p : Option Region) (r : Region) : Bool :=
  (match p with
    | none => false
    | some q =>
      (c.own 6 && (match quotaLeft s q.rid with | some left => left < c.quota | none => false)) ||
      (c.own 8 && !(q.tfirst ≤ r.tfirst && r.tfirst + r.tcount ≤ q.tfirst + q.tcount)) ||
      (c.own 9 && !(q.pool.toNat ≤ r.pool.toNat && r.pool.toNat + 8 * r.pooln ≤ q.pool.toNat + 8 * q.pooln))) ||
    !(r.exitc = noCounter || r.exitc < r.pooln) ||
    (r.timed && ((r.cores.map (fun n => BitVec.ofNat 2 (dieOf n))).eraseDups.any (fun d => 16 < (localEntries s d r).length)))

/-! ### The decision (R21) -/

/-- What becomes of a start: refused with a status and RID, a page to ask for with the status of its failure, or the
region with its root record. -/
inductive Verdict
  | refuse (status : Nat) (rid : BitVec 16)
  | ask (pasid : BitVec 20) (va : Word) (fault : Bool) (status : Nat) (rid : BitVec 16)
  | start (r : Region) (root : Option Vec)
  deriving DecidableEq, Repr

/-- Check 8 of R21: the root record, and each counter that it names, can be read and it is valid. -/
def checkRoot (s : State) (c : Rcb) (r : Region) : Verdict :=
  if c.root = 0 then .start r none
  else
    match devKey s r.pasid .r c.root with
    | .error (.ask va f) => .ask r.pasid va f 0x17 r.rid
    | .error _ => .refuse 0x17 r.rid
    | .ok key =>
      let v : Vec := BitVec.ofNat 512 (Memory.readLE s.mem key 64)
      let t := parseTrec v
      if poisonedAt s key 64 || (trecFields t).isSome || (trecRegion r t (eligible r t none)).isSome || !(t.trid = 0 || t.trid = r.rid) then
        .refuse 0x17 r.rid
      else
        let reads := t.used.map (fun p => devKey s r.pasid .r (r.pool.toNat + 8 * p.1))
        if reads.any (fun k => match k with | .ok key => poisonedAt s key 8 | .error (.ask ..) => false | .error _ => true) then
          .refuse 0x17 r.rid
        else
          match reads.findSome? (fun k => match k with | .error (.ask va f) => some (va, f) | _ => none) with
          | some (va, f) => .ask r.pasid va f 0x17 r.rid
          | none => .start r (some v)

/-- Check 5 of R21: the parent in the function's subtree, TENANT overridden only by children of the device, and a bound
tenant (R312). -/
def tenantBad (s : State) (f : Fn) (c : Rcb) (p : Option Region) (r : Region) : Bool :=
  (match f with
    | .pf => false
    | .vf n =>
      let w := vfBind s n
      !w.getLsbD 63 || !(match p with | some q => s.within (w.extractLsb' 32 16) q.rid | none => false)) ||
    (c.own 0 && p.isSome) || (tenantPasid s r.tenant).isNone

/-- The first word of the tile tables that a timed region's cores are to hold copies of, whose page the device has still to ask
for (R194, R202). -/
def tileAsk (s : State) (r : Region) : Option (Word × Bool) :=
  ((r.cores.map (fun n => BitVec.ofNat 2 (dieOf n))).eraseDups).findSome? (fun d =>
    (localEntries s d r).findSome? (fun t =>
      match ttbaseOf s d with
      | none => none
      | some base =>
        let e := parseTensor (BitVec.ofNat 512 (Memory.readLE (soundMem s) (keyStack (base + 64 * t)) 64))
        if !e.ok || 64 < e.nfrm then none
        else (List.range e.nfrm).findSome? (fun i =>
          match devKey s r.pasid .r (e.ttab + 8 * i) with
          | .error (.ask va fault) => some (va, fault)
          | _ => none)))

/-- A start that passes waits for the tile tables that its region pins, unless their page request failed (R202). -/
def withTables (s : State) (tables : Bool) (v : Verdict) : Verdict :=
  match v with
  | .start r _ =>
    if !tables || !r.timed then v
    else match tileAsk s r with
      | some (va, fault) => .ask r.pasid va fault 0x01 r.rid
      | none => v
  | _ => v

/-- The handler address of a start: HVEC of its function, which a child started through its parent's function inherits as its
parent has it (DEDUCED from R254; log entry 34). -/
def startHvec (s : State) (f : Fn) (p : Option Region) : Word :=
  match p with
  | some q => if q.via = f then q.hvec else (s.fnRegs f).hvec
  | none => (s.fnRegs f).hvec

/-- The address of the RCB that REGSTART names (R20). -/
def rcbAddr (a : Word) : Nat := (a.extractLsb' 8 40).toNat * 256

/-- Checks 0 to 7 of R21, in their order: the RCB and the region that passes them, or what becomes of the start. An RCB that names a
tenant under whose own PASID it was not read counts as one that cannot be read (R312; log entry 15). -/
def judgeRcb (s : State) (f : Fn) (a : Word) : Except Verdict (Rcb × Region) :=
  let va := rcbAddr a
  let pasid := rcbPasid s f va
  match devKey s pasid .r va with
  | .error (.ask x fault) => .error (.ask pasid x fault 0x18 0)
  | .error _ => .error (.refuse 0x18 0)
  | .ok key =>
    if poisonedAt s key 256 then .error (.refuse 0x18 0)
    else
      let c := parseRcb (Memory.readBytes s.mem key 256)
      let par := parentOf s f c pasid
      let p := par.join
      let r : Region := resolve s c p
      let r := { r with rcb := key, rcbVa := va, pasid := (tenantPasid s r.tenant).getD 0 }
      let q := if par = none && c.parent = 0 && f = .pf then none else if c.parent ≠ 0 || f ≠ .pf then some r else none
      if par.isSome && (tenantPasid s r.tenant).any (fun x => x ≠ pasid) then .error (.refuse 0x18 0)
      else if rcbBad a c q r then .error (.refuse 0x10 c.rid)
      else if par.isNone then .error (.refuse 0x11 c.rid)
      else if 8 < r.depth then .error (.refuse 0x12 c.rid)
      else if (s.region c.rid).isSome then .error (.refuse 0x13 c.rid)
      else if tenantBad s f c p r then .error (.refuse 0x16 c.rid)
      else
        match (if c.own 5 then chooseCores s c p r else some (r.cores, r.rows)), nextTag s with
        | some (cores, rows), some tag =>
          let r := { r with cores := cores, rows := rows, tag := tag, fn := if p.isSome then r.fn else f
                            via := f, hvec := startHvec s f p }
          if quotaBad s c p r then .error (.refuse 0x15 c.rid) else .ok (c, r)
        | _, _ => .error (.refuse 0x14 c.rid)

/-- The checks of R21, in their order; `tables` while the region's tile tables are waited for. -/
def judge (s : State) (f : Fn) (a : Word) (tables : Bool) : Verdict :=
  match judgeRcb s f a with
  | .error v => v
  | .ok (c, r) => withTables s tables (checkRoot s c r)

/-- The root record and its counters are read (R21, R267). -/
def readRoot (s : State) (c : Rcb) (r : Region) : State :=
  if c.root = 0 then s
  else
    let s := devNote s r.pasid c.root 64 0 true
    match devKey s r.pasid .r c.root with
    | .error _ => s
    | .ok key =>
      (parseTrec (BitVec.ofNat 512 (Memory.readLE s.mem key 64))).used.foldl (fun s p =>
        devNote s r.pasid (r.pool.toNat + 8 * p.1) 8 0 true) s

/-- The entries of a timed region's tensor range on the dies of its cores, and the words of the tile tables that its cores are to hold,
are read (R21, R202, R267). -/
def readTables (s : State) (r : Region) : State :=
  if !r.timed then s
  else ((r.cores.map (fun n => BitVec.ofNat 2 (dieOf n))).eraseDups).foldl (fun s d =>
    match ttbaseOf s d with
    | none => s
    | some base =>
      let s := (List.range r.tcount).foldl (fun s i => devRead s (keyStack (base + 64 * (r.tfirst + i))) 64) s
      (localEntries s d r).foldl (fun s t =>
        let e := parseTensor (BitVec.ofNat 512 (Memory.readLE (soundMem s) (keyStack (base + 64 * t)) 64))
        if !e.ok || 64 < e.nfrm then s
        else (List.range e.nfrm).foldl (fun s i => devNote s r.pasid (e.ttab + 8 * i) 8 0 true) s) s) s

/-- What a start reads before it is judged: its RCB, and of one that passes so far the tensor tables of a timed region and the root
record (R21, R267). -/
def startReads (s : State) (f : Fn) (a : Word) : State :=
  let s := devNote s (rcbPasid s f (rcbAddr a)) (rcbAddr a) 256 0 true
  match judgeRcb s f a with
  | .ok (c, r) => readRoot (readTables s r) c r
  | .error _ => s

/-! ### Acceptance -/

/-- A core for its next region: its sets, counts, buffers and weights are cleared. Operations that still stand in its engine are
those of regions that live on, since those of an ended one were abandoned (R168). -/
def clearEngine (c : Core) : Core :=
  { c with mx := Matrix.clear, dirty := false, eng := { c.eng with qma := [], qmr := [], emit := [] } }

/-- Zero a core's scratchpad: every word is written, the one that an armed injection waits for among them (R262, R267). -/
def zeroScratch (s : State) (n : Nat) : State :=
  let z := { s with mem := s.mem.filter (fun c => c.1 < keyL n 0 || keyL (n + 1) 0 ≤ c.1) }
  match injectedWord s with
  | some w => if keyL n 0 ≤ w && w < keyL (n + 1) 0 then noteWrite z (plainBytes w (leBytes 0 8)) else z
  | none => z

/-- The parked regions, but for those of a set, that had a core and lose it to the set's regions (R262). -/
def losers (s : State) (ids : List (BitVec 16)) (n : Nat) : List (BitVec 16) :=
  (s.regions.filter (fun q => q.phase = .parked && q.own && q.cores.contains n && !ids.contains q.rid)).map (fun q => q.rid)

/-- Regions of a set are placed on cores: each is noted with the parked regions that had it, whose return finds zeros there
(R262). -/
def noteTaken (s : State) (ids : List (BitVec 16)) (cores : List Nat) : State :=
  cores.foldl (fun s n =>
    let l := losers s ids n
    { s with regions := s.regions.map (fun q =>
        if l.contains q.rid && !q.taken.contains n then { q with taken := q.taken ++ [n] } else q) }) s

/-- The cores of a new region are made ready: those of parked regions are zeroed and noted with them, and those whose
last region ended have their engine cleared; the engine state that an evicted region leaves on its cores stays (R168, R262;
DESIGN CHOICE, unsafe: R168 names ended and torn-down regions only; log entry 64). -/
def readyCores (s : State) (r : Region) : State :=
  if !r.own then
    r.cores.foldl (fun s n =>
      if (s.core n).dirty then s.modCore n clearEngine else s) s
  else
    let ids := r.rid :: (s.ancestry r.parent).map (fun q => q.rid)
    noteTaken (r.cores.foldl (fun s n =>
      let parked := !(losers s ids n).isEmpty
      let s := if parked then zeroScratch s n else s
      if parked || (s.core n).dirty then s.modCore n clearEngine else s) s) ids r.cores

/-- Packets held at cores on which regions are placed, and for none of these, are discarded at once (R244). -/
def expirePackets (s : State) (cores : List Nat) (ids : List (BitVec 16)) : State :=
  let expire (p : Packet) : Packet :=
    if p.held.isSome && cores.contains p.dst && !(p.heldFor.any (fun r => ids.contains r)) then { p with held := some s.gtime, heldFor := none } else p
  { s with net := s.net.map expire, inbound := s.inbound.map expire }

/-- The words of a small tile table as the device reads them at a start; one that it cannot read stands as absent (R199, R202; log
entry 57). -/
def pinnedTiles (s : State) (r : Region) (e : Tensor) : List Word :=
  if !e.ok || 64 < e.nfrm then []
  else (List.range e.nfrm).map (fun i =>
    match devKey s r.pasid .r (e.ttab + 8 * i) with
    | .ok key => BitVec.ofNat 64 (Memory.readLE (soundMem s) key 8)
    | .error _ => 0)

/-- The pinned copies of a timed region's LOCAL entries on each of its cores, from the table of the core's die; of one whose tile
table has more than 64 words the entry alone is copied, and its tile words are read where they stand (R202; log entry 57). -/
def pinEntries (s : State) (r : Region) : State :=
  if !r.timed then s
  else r.cores.foldl (fun s n =>
    let d := BitVec.ofNat 2 (dieOf n)
    match ttbaseOf s d with
    | none => s
    | some base => (localEntries s d r).foldl (fun s t =>
      let v : Vec := BitVec.ofNat 512 (Memory.readLE (soundMem s) (keyStack (base + 64 * t)) 64)
      let e := parseTensor v
      let tiles := if e.ok && 64 < e.nfrm then none else some (pinnedTiles s r e)
      s.modCache n (fun c => { c with held := holdCopy c.held ⟨t, r.rid, v, tiles, true⟩ })) s) s

/-! ### Islands of timed domains (R61, R66, R320) -/

/-- The islands of a domain's cores. -/
def domainIslands (s : State) (d : Domain) : List Nat :=
  match s.region d.root with | some r => (r.cores.map islandOf).eraseDups | none => []

/-- The islands that share pulses with a set: those of every timed domain with a core in it. -/
def islandClosure (s : State) (fuel : Nat) (l : List Nat) : List Nat :=
  match fuel with
  | 0 => l
  | fuel + 1 =>
    islandClosure s fuel ((l ++ (s.domains.map (fun d =>
      let m := domainIslands s d
      if m.any (fun i => l.contains i) then m else [])).flatten).eraseDups)

/-- Does an island hold a timed-domain core? -/
def timedIsland (s : State) (i : Nat) : Bool := s.domains.any (fun d => (domainIslands s d).contains i)

/-- The clock of an island: its pulses since reset (R66). -/
def islandClock (s : State) (i : Nat) : Nat := s.sched.clock - assocGet s.power.lost i 0

/-- PWRSTAT.THR: the pulses swallowed in the last 1 ms, 600,000 clocks, in 1/256 of all pulses (R320). -/
def throttled (s : State) : Nat :=
  let l := s.power.recent.filter (fun e => s.sched.clock < e.1 + 600000)
  let sum (f : Nat × Nat → Nat) : Nat := l.foldl (fun n e => n + f e.2) 0
  min 255 (256 * sum (fun e => e.2) / (48 * min 600000 s.sched.clock - sum (fun e => e.1)))

/-- Pulses of an island to be swallowed: a single one, or 8 from a multiple of 8 (R66, R320). -/
def swallowOn (s : State) (i count from' : Nat) : State :=
  let old := assocGet s.power.swallow i (0, 0)
  let new := if old.1 = 0 then (count, from') else (old.1 + count, old.2)
  { s with power := { s.power with swallow := assocSet s.power.swallow i new } }

/-- CLKCHANGE in every Cellar of an island and of its die (R274, R320). -/
def recordClock (s : State) (i mhz : Nat) : State :=
  let p := BitVec.ofNat 82 (mhz * 2 ^ 70 + i * 2 ^ 64)
  let s := ((List.range 64).map (fun j => i / 16 * 768 + i % 16 * 64 + j)).foldl (fun s n =>
    if present s n then recordCore s n 0x15 0 0 p none none else s) s
  recordDie s (BitVec.ofNat 2 (i / 16)) 0x15 0 p

/-- The core clock of an island changes, in 50 MHz steps from 300 to 600 MHz, where no timed-domain core is (R320). -/
def setClock (s : State) (i mhz : Nat) : State :=
  if timedIsland s i || mhz < 300 || 600 < mhz || mhz % 50 ≠ 0 || (assocGet s.power.mhz i (600, 0)).1 = mhz then s
  else
    let l := if mhz = 600 then assocErase s.power.mhz i else assocSet s.power.mhz i (mhz, 0)
    recordClock { s with power := { s.power with mhz := l } } i mhz

/-- The pulses that an island has lost or is still to lose. -/
def islandOwes (s : State) (i : Nat) : Nat := assocGet s.power.lost i 0 + (assocGet s.power.swallow i (0, 0)).1

/-- The islands of a new domain are brought into step, so that they lose the same pulses from its first tick on: each goes back
to 600 MHz, and those without a timed core lose single pulses until their clocks agree mod 8 (DEDUCED from R61, R66 and R320; log
entry 58). -/
def alignIslands (s : State) (l : List Nat) : State :=
  let s := l.foldl (fun s i => setClock s i 600) s
  let goal := match l.find? (timedIsland s) with | some i => islandOwes s i | none => (l.map (islandOwes s)).foldl max 0
  l.foldl (fun s i =>
    let n := (goal + 8 - islandOwes s i % 8) % 8
    if n = 0 then s else swallowOn s i n (islandClock s i + 1)) s

/-- The clocks until an island has lost the pulses that it owes. -/
def settleTime (s : State) (i : Nat) : Nat :=
  let (n, from') := assocGet s.power.swallow i (0, 0)
  if n = 0 then 0 else n + (from' - islandClock s i)

/-- The clocks of island i until some islands lose the same pulses from then on: none where they are in step already and owe the
same pulses (R61, R66; log entry 58). -/
def settleAll (s : State) (l : List Nat) (i : Nat) : Nat :=
  let step (j : Nat) : Nat × Nat × Nat := (islandClock s j % 8, (assocGet s.power.swallow j (0, 0)).1, settleTime s j)
  if l.all (fun j => step j = step i) then 0
  else (l.map (settleTime s)).foldl max 0 - (assocGet s.power.swallow i (0, 0)).1

/-- The timed domain that a start declares (R60, R61). -/
def declareDomain (s : State) (r : Region) : State :=
  if !r.timed || (match s.region r.parent with | some p => p.timed | none => false) then s
  else
    let l := islandClosure s s.domains.length ((r.cores.map islandOf).eraseDups)
    let s := alignIslands s l
    let c := s.coreClock (r.cores.headD 0) + settleAll s l (islandOf (r.cores.headD 0))
    let dies := (r.cores.map dieOf).eraseDups
    let lf := if dies.length ≤ 1 then Config.lfOneDie else Config.lfManyDies
    let d : Domain := ⟨r.rid, 0, (c + 7) / 8 * 8, lf, false, none, none, 0, 0⟩
    { s with domains := s.domains ++ [d] }

/-- A request block's ranges, when it is well formed (R305). -/
def parseRequest (b : List Byte) : Option (BitVec 16 × Nat × List (Byte × BitVec 32 × Word)) :=
  let u (i n : Nat) : Nat := leValue ((b.drop i).take n)
  let n := u 2 1
  let l := (List.range n).map (fun i => (BitVec.ofNat 8 (u (64 + 16 * i) 1), BitVec.ofNat 32 (u (68 + 16 * i) 4), BitVec.ofNat 64 (u (72 + 16 * i) 8)))
  let zero := u 3 1 = 0 && ((b.drop 8).take 56).all (fun x => x = 0) && (List.range n).all (fun i => u (65 + 16 * i) 3 = 0)
  if zero && 1 ≤ n && n ≤ 60 && 1 ≤ u 4 4 && u 4 4 ≤ 65536 && l.all (fun e => (e.1 = 1 || e.1 = 2) && e.2.1 ≠ 0) then
    some (BitVec.ofNat 16 (u 0 2), u 4 4, l)
  else none

/-- The resolved RCB as a manifest digests it: each inherited group's bytes replaced by the resolved values, an
inherited QUOTA being that of the region on which it draws, 0 for no limit; bytes 128 to 255 zero (R306; log entry 20). -/
def resolvedRcb (s : State) (r : Region) : List Byte :=
  let b := Memory.readBytes s.mem r.rcb 128
  let flags := (if r.timed then 1 else 0) + (if r.det then 2 else 0) + r.rclass.toNat * 4 + (if r.fdr then 16 else 0)
  b.take 6 ++ leBytes r.tenant.toNat 2 ++ (b.drop 8).take 8 ++ [BitVec.ofNat 8 r.prio, BitVec.ofNat 8 flags,
    r.gpart.setWidth 8, r.tslots.setWidth 8] ++ leBytes r.ncores 2 ++ [BitVec.ofNat 8 r.grows, BitVec.ofNat 8 r.policy] ++
    leBytes (((r :: s.ancestry r.parent).findSome? (fun q => q.quota)).getD 0) 8 ++ leBytes r.aging 4 ++
    leBytes (r.tfirst + r.tcount * 4096) 4 ++ leBytes r.pool.toNat 8 ++ leBytes r.pooln 4 ++ leBytes r.exitc 4 ++
    (b.drop 56).take 72 ++ List.replicate 128 0

/-- A manifest opens with an accepted start (R305, R306). -/
def newManifest (s : State) (r : Region) (maxb : Nat) (l : List (Byte × BitVec 32 × Word)) : Manifest :=
  { id := s.nextMan, rid := r.rid, tenant := r.tenant
    flags := BitVec.ofNat 8 ((if r.timed then 2 else 0) + (if r.det then 4 else 0)), maxb := maxb, tstart := s.gtime
    cfg := Config.sha384 (resolvedRcb s r), ranges := l, recs := [], bounds := 0, chain := 0, marks := [], closed := false }

/-- MANSTAT with a status; the request is gone. -/
def manStatus (s : State) (f : Fn) (st : Nat) : State :=
  s.modFn f (fun x => { x with manreq := none, manstat := (x.manstat &&& ~~~0x2FF) ||| BitVec.ofNat 64 st })

/-- The bytes of a listed range; none where a page cannot be read, or an address to ask for. -/
def rangeBytes (s : State) (pasid : BitVec 20) (va count : Nat) : Except Stop (List Byte) :=
  match count with
  | 0 => .ok []
  | count + 1 =>
    match devKey s pasid .r va with
    | .error e => .error e
    | .ok key =>
      if s.poison.contains (lineOf key) then .error (.fail .ecc cSOFT 0)
      else
        match rangeBytes s pasid (va + 1) count with
        | .error e => .error e
        | .ok l => .ok (Memory.read s.mem key :: l)

/-- The request block of a function's armed request, where it names the region: its header, then its ranges. It is read under the
PASID of the region that starts (R305; DESIGN CHOICE, unsafe: R305 names no PASID; log entry 72). -/
def requestBlock (s : State) (f : Fn) (r : Region) : Except Stop (Option (List Byte)) :=
  match (s.fnRegs f).manreq with
  | none => .ok none
  | some a =>
    let va := (a.extractLsb' 8 40).toNat * 256
    match rangeBytes s r.pasid va 64 with
    | .error e => .error e
    | .ok b =>
      if BitVec.ofNat 16 (leValue (b.take 2)) ≠ r.rid then .ok none
      else (rangeBytes s r.pasid va (64 + 16 * min 60 (leValue ((b.drop 2).take 1)))).map some

/-- The device reads the request block of an armed request (R267, R305). -/
def readRequest (s : State) (f : Fn) (r : Region) : State :=
  match (s.fnRegs f).manreq, requestBlock s f r with
  | some a, .ok b =>
    let va := (a.extractLsb' 8 40).toNat * 256
    devNotes s r.pasid va (va + (match b with | some l => l.length | none => 64)) 0
  | _, _ => s

/-- The armed request of a function meets an accepted start: a matching block opens a manifest; one that cannot be read answers
BADREQ (log entry 37); a closed manifest is kept until 16 newer ones have been opened (R305, R307). -/
def openRequest (s : State) (f : Fn) (r : Region) : State :=
  match requestBlock s f r with
  | .error _ => manStatus s f 0x40
  | .ok none => s
  | .ok (some b) =>
    match parseRequest b with
    | none => manStatus s f 0x40
    | some (_, maxb, l) =>
      if 16 ≤ (s.manifests.filter (fun m => !m.closed)).length then manStatus s f 0x41
      else
        let m := newManifest s r maxb l
        let s := manStatus s f 0x01
        let s := s.modFn f (fun x => { x with manstat := (x.manstat &&& 0xFFFF) ||| (BitVec.ofNat 64 m.id <<< 16) })
        let s := { s with manifests := s.manifests.filter (fun (x : Manifest) => !x.closed || m.id < x.id + 16) ++ [m], nextMan := m.id + 1 }
        s.modRegion r.rid (fun r => { r with manifest := some m.id })

/-- The root record of an accepted start goes to the die of VCN 0; with its unit full it waits on its way, as a SPAWN's record
does (R34, R44, R45). -/
def enqueueRoot (s : State) (r : Region) (v : Vec) : State :=
  let n := r.cores.headD 0
  let d := BitVec.ofNat 2 (recordDieOf r (parseTrec v) none)
  if !dispatchFull s d.toNat then (enqueueRecord s d r v none).2
  else
    sendPacket s (fun id =>
      { id := id, src := n, tenant := r.tenant, dst := dispatchEnd d.toNat, peer := none, link := none, svcn := 0, pkg := none
        strm := 0, val := 0, head := ⟨id, id, r.rid, 0, 0, 0, [], false, 0, 0, r.timed, false, none, 0⟩
        entry := none, landed := false, held := none, heldFor := none, due := none, cargo := .record d v })

/-- A start is accepted (R17, R21, R272, R274). -/
def acceptStart (s : State) (f : Fn) (r : Region) (root : Option Vec) : State :=
  let r := { r with started := s.gtime }
  let s := readyCores s r
  let s := storeDev s (plainBytes (r.rcb + 128) (leBytes 1 8 ++ leBytes 0 120))
  let a : Assign := ⟨r.tag, r.rid, r.tenant, r.rclass, s.gtime, none⟩
  let s := { s with regions := s.regions ++ [r], vault := { s.vault with lastTag := r.tag, assigns := keepTwo s.vault.assigns a } }
  let s := pinEntries (declareDomain (expirePackets s r.cores [r.rid]) r) r
  let d := BitVec.ofNat 2 (dieOf (r.cores.headD 0))
  let s := recordDie s d 0x1A r.tag (BitVec.ofNat 82 (r.rid.toNat * 2 ^ 66 + 6 * 2 ^ 62))
  let s := openRequest s f r
  match root with
  | some v => enqueueRoot s r v
  | none => s

/-- Does the device take starts and region operations now (R265, R316)? -/
def accepting (s : State) : Bool := s.bar.ready && !s.bar.fatal

/-- REGSTAT with the outcome of a start (R20). -/
def regstatus (s : State) (f : Fn) (rid : BitVec 16) (st : Nat) : State :=
  s.modFn f (fun x => { x with
    startWait := none, startReq := none, startTried := []
    regstat := (x.regstat &&& 0x100) ||| BitVec.ofNat 64 (rid.toNat * 2 ^ 48 + st) })

/-- A start waits for a page with BUSY set; `fail` is what a failed request gives it (R21). -/
def startWaits (s : State) (f : Fn) (a : Word) (pasid : BitVec 20) (va : Word) (fault : Bool) (fail : Nat × BitVec 16) : State :=
  let (id, s) := devAsk s pasid va fault false 0
  s.modFn f (fun x => { x with startWait := some a, startReq := id, startFail := (fail.1, (fail.2, pasid)), regstat := x.regstat ||| 0x200 })

/-- Process a start: its verdict now, or a page to wait for (R21, R305). -/
def processStart (s : State) (f : Fn) (a : Word) (tables : Bool) : State :=
  let s := startReads s f a
  match judge s f a tables with
  | .refuse st rid => regstatus s f rid st
  | .ask pasid va fault st rid => startWaits s f a pasid va fault (st, rid)
  | .start r root =>
    let s := readRequest s f r
    match requestBlock s f r with
    | .error (.ask va fault) => startWaits s f a r.pasid va fault (0x40, r.rid)
    | _ => regstatus (acceptStart s f r root) f r.rid 0x01

/-- The end of a start's failed page request: the status and RID of the check that asked, though the RCB may still be found under
another bound tenant (log entry 15); a request block that cannot be read
answers BADREQ, and the region starts without a manifest; a tile table that cannot be read stands as absent (R21, R202,
R305). -/
def failStart (s : State) (f : Fn) (a : Word) : State :=
  let (st, rid, pasid) := (s.fnRegs f).startFail
  let t := s.modFn f (fun x => { x with startTried := x.startTried ++ [pasid] })
  if st = 0x18 && f = .pf && (rcbUnder t f (rcbAddr a) [.fits, .walk, .fault]).isSome then processStart t f a true
  else if st = 0x40 then processStart (manStatus s f 0x40) f a true
  else if st = 0x01 then processStart s f a false
  else regstatus s f rid st

/-- REGSTART: a write while the device is busy is discarded and sets DROP (R20, R21, R316). -/
def execRegstart (fn : Fn) (val : Word) (s : State) : Result :=
  .next (if !accepting s || (s.fnRegs fn).startWait.isSome then s.modFn fn (fun x => { x with regstat := x.regstat ||| 0x100 })
    else processStart s fn val true)

/-- MANREQ: arms a request; one already armed discards the write and sets DROP (R305). -/
def execManreq (fn : Fn) (val : Word) (s : State) : Result :=
  .next (s.modFn fn (fun x =>
    if x.manreq.isSome then { x with manstat := x.manstat ||| 0x100 }
    else { x with manreq := some val, manstat := x.manstat ||| 0x200 }))

/-- A range record of a manifest (R306). -/
def rangeRecord (e : Byte × BitVec 32 × Word) (l : List Byte) : List Byte :=
  [e.1, 0, 0, 0] ++ leBytes e.2.1.toNat 4 ++ leBytes e.2.2.toNat 8 ++ leBytes (Config.sha384 l).toNat 48

/-- Change a manifest. -/
def modManifest (s : State) (id : Nat) (f : Manifest → Manifest) : State :=
  { s with manifests := s.manifests.map (fun m => if m.id = id then f m else m) }

/-- MANIFEST_RANGE_HASH: the next listed range is hashed; one that cannot be read gives RANGE, and the region runs without
a manifest (R305). -/
def execManifestRangeHash (rid : BitVec 16) (s : State) : Result :=
  .next (match s.region rid with
    | none => s
    | some r =>
      match s.manifests.find? (fun m => some m.id = r.manifest && !m.closed) with
      | none => s
      | some m =>
        match m.ranges[m.recs.length]? with
        | none => s
        | some e =>
          let s := devNotes s r.pasid e.2.2.toNat (e.2.2.toNat + e.2.1.toNat) r.tag
          match rangeBytes s r.pasid e.2.2.toNat e.2.1.toNat with
          | .ok l => modManifest s m.id (fun m => { m with recs := m.recs ++ [rangeRecord e l] })
          | .error (.ask va false) => (devAsk s r.pasid va false false 0).2
          | .error _ =>
            let s := { s with manifests := s.manifests.filter (fun x => x.id ≠ m.id) }
            (s.modRegion rid (fun r => { r with manifest := none })).modFn r.via (fun x =>
              { x with manstat := (x.manstat &&& ~~~0xFF) ||| 0x42 }))

/-! ### Page digests (R303, R304) -/

/-- Insert in ascending order. -/
def insertNat (x : Nat) (l : List Nat) : List Nat :=
  match l with
  | [] => [x]
  | y :: r => if x ≤ y then x :: y :: r else y :: insertNat x r

/-- The first of some pages that the device has still to translate. -/
def pagesAsk (s : State) (pasid : BitVec 20) (l : List Nat) : Option Word :=
  l.findSome? (fun p => match devKey s pasid .r (p * 4096) with | .error (.ask va false) => some va | _ => none)

/-- The digest entries of pages in ascending address, with whether a page failed (R303). -/
def digestPages (s : State) (pasid : BitVec 20) (l : List Nat) : List Byte × Bool :=
  match l with
  | [] => ([], false)
  | p :: r =>
    let (bytes, bad) := digestPages s pasid r
    match devKey s pasid .r (p * 4096) with
    | .ok key => (leBytes (p * 4096) 8 ++ leBytes (Config.sha384 (Memory.readBytes s.mem key 4096)).toNat 48 ++ bytes, bad)
    | .error _ => (leBytes (p * 4096) 8 ++ List.replicate 48 0xFF ++ bytes, true)

/-- A boundary record (R306). -/
def boundRecord (n g : Nat) (d : BitVec 384) : List Byte := [3, 0, 0, 0] ++ leBytes n 4 ++ leBytes g 8 ++ leBytes d.toNat 48

/-- A boundary enters a manifest: its own record, or the fold into the last (R306). -/
def addBoundary (m : Manifest) (g : Nat) (d : BitVec 384) (bad : Bool) : Manifest :=
  let b := m.bounds + 1
  let folded := m.maxb < b
  let recs := if folded then m.recs.dropLast ++ [boundRecord (b - m.maxb + 1) g d] else m.recs ++ [boundRecord 1 g d]
  { m with bounds := b, chain := d, marks := [], recs := recs
           flags := m.flags ||| (if bad then 0x10 else 0) ||| (if folded then 0x20 else 0) }

/-- PAGE_DIGEST_DONE: every marked page has been read, after the listed ranges, the chain value is formed, and placement resumes
(R303 to R305). The pages of a boundary are all read in this one step (DESIGN CHOICE, unsafe: R304 gives no moment within the hold;
log entry 71). -/
def execPageDigestDone (rid : BitVec 16) (s : State) : Result :=
  .next (match s.region rid, openManifest s rid with
    | some r, some m =>
      if !r.digest || m.recs.length < m.ranges.length then s
      else
        let pages := m.marks.foldl (fun l p => insertNat p l) []
        match pagesAsk s r.pasid pages with
        | some va => (devAsk s r.pasid va false false 0).2
        | none =>
          let s := pages.foldl (fun s p => devNote s r.pasid (p * 4096) 4096 r.tag false) s
          let (l, bad) := digestPages s r.pasid pages
          let d := Config.sha384 (leBytes m.chain.toNat 48 ++ l)
          (modManifest s m.id (fun m => addBoundary m r.restAt d bad)).modRegion rid (fun r => { r with digest := false })
    | some r, none => if r.digest then s.modRegion rid (fun r => { r with digest := false }) else s
    | none, _ => s)

end Sys2Proof.Machine
end

