-- ==== Sys2Proof/Machine/Context.lean ====
section
/-! DEFINITION. Reported causes, contexts as they are saved and restored, debug stops, the freeze and resume of a timed
domain, and the gang barrier's release (R62 to R64, R192, R223, R251 to R259, R322, R359). -/

namespace Sys2Proof.Machine

/-! ### The context tail (R255) -/

/-- A token state's code in the tail. -/
def tokCode (k : Tok) : Nat := match k with | .free => 0 | .pending => 1 | .done => 2 | .dropped => 2

/-- The word of predicates and token states. -/
def predWord (t : Thread) : Nat :=
  let ps := (List.range 8).foldl (fun a i => a + (if t.regs.getP (BitVec.ofNat 3 i) then 2 ^ i else 0)) 0
  (List.range 7).foldl (fun a j => a + tokCode ((t.tok[j + 1]?).getD .free) * 2 ^ (8 + 2 * j)) ps

/-- Offsets 0x000 to 0xDFF of a tail. -/
def tailBytes (t : Thread) (lifted : List (Flight × Vec)) : List Byte :=
  let g := t.regs
  let r5 : List Reg := (List.range 32).map (BitVec.ofNat 5)
  wordsBytes (r5.map g.getX) ++ wordsBytes (r5.map g.getY) ++
    ((r5.take 24).map (fun r => leBytes (g.getV r).toNat 64)).flatten ++
    wordsBytes ((List.range 8).map (fun i => g.getM (BitVec.ofNat 3 i))) ++
    wordsBytes [t.ctl.pc, t.ctl.ths, t.ctl.stallc, t.ctl.lsel.setWidth 64, t.ctl.trapc, t.ctl.trappc, t.ctl.trapv] ++
    leBytes (predWord t) 8 ++ wordsBytes (wstateOf t.pipe) ++ List.replicate 104 0 ++ tableBytes lifted

/-- Save a whole context to the tail of slot k of core n: the results in flight move to its table (R223, R255, R256). -/
def saveTail (s : State) (n k : Nat) (t : Thread) : State × Thread :=
  let lifted := liftValues t.regs (sortFlights t.pipe.flights)
  let s := storeRaw s (plainBytes (keyL n (tailOf k)) (tailBytes t lifted))
  (s, { t with pipe := { t.pipe with
    flights := [], lifted := lifted.map (fun e => { e.1 with val := e.2 }) } })

/-- A token state from a tail: one that was pending stands as it stands now, since its operation went on (R223). -/
def tokFrom (code : Nat) (now : Tok) : Tok :=
  match code with | 0 => .free | 2 => (if now = .dropped then .dropped else .done) | _ => now

/-- The registers of a tail at a key. -/
def tailRegs (m : List Host.Cell) (a : Nat) : Regs :=
  let w (o : Nat) : Word := BitVec.ofNat 64 (Memory.readLE m (a + o) 8)
  { x := (Vector.range 32).map (fun i => if i = 0 then 0 else w (8 * i))
    y := (Vector.range 32).map (fun i => if i = 0 then 0 else w (0x100 + 8 * i))
    v := (Vector.range 24).map (fun i => BitVec.ofNat 512 (Memory.readLE m (a + 0x200 + 64 * i) 64))
    p := (Vector.range 8).map (fun i => i = 0 || (w 0x878).getLsbD i)
    m := (Vector.range 8).map (fun i => if i = 0 then BitVec.allOnes 64 else w (0x800 + 8 * i)) }

/-- A thread as its tail gives it; none where the table or WSTATE is malformed (R255, R258, R259, R264). -/
def restoreTail (s : State) (n k : Nat) (t : Thread) : Option Thread :=
  let a := keyL n (tailOf k)
  let w (o : Nat) : Word := BitVec.ofNat 64 (Memory.readLE s.mem (a + o) 8)
  match parseTable s.mem (a + 0x900) 16 s.sched.nextId t.pipe.lifted, parseWstate [w 0x880, w 0x888, w 0x890] s.gtime with
  | .ok fl, some (wt, turns) =>
    some { t with
      regs := tailRegs s.mem a
      ctl := { t.ctl with
        pc := pcField (w 0x840), ths := (t.ctl.ths &&& ~~~0xF1F70) ||| (w 0x848 &&& 0xF1F70), stallc := w 0x850 &&& 0xFFFFFFFF
        lsel := (w 0x858).setWidth 4, trapc := w 0x860, trappc := pcField (w 0x868), trapv := w 0x870 }
      tok := (Vector.range 8).map (fun j =>
        let now := (t.tok[j]?).getD .free
        if j = 0 then now else tokFrom ((w 0x878).extractLsb' (6 + 2 * j) 2).toNat now)
      pipe := { t.pipe with
        flights := t.pipe.flights ++ fl, lifted := [], wait := if t.pipe.wait = .gbar then .gbar else wt, waitLeft := turns, watch := none } }
  | _, _ => none

/-- Bring a thread back from its tail; a malformed tail is region-fatal ILLEGAL, as for ERET, and an uncorrectable error in it ECC
(R258, R266). -/
def reloadThread (s : State) (n k : Nat) (f : Thread → Thread) : State :=
  let s := noteRead s (.core n) k ((s.thread n k).map (fun t => t.tid)) (keyL n (tailOf k)) 3584
  match s.thread n k with
  | none => s
  | some t =>
    if t.life.halted then s
    else match restoreTail s n k t with
    | some t => { s.setThread n k (some (f t)) with sched := { s.sched with nextId := s.sched.nextId + 16 } }
    | none => detectFatal s n k cILLEGAL 0 0

/-! ### Reported causes (R251, R253, R257) -/

/-- A report's cause, its trap value, its rank, and whether a member takes it in a freeze (R63, R251). -/
def reportInfo (r : Report) : BitVec 16 × Word × Nat × Bool :=
  match r with
  | .trap code => (cTRAP, code, 0, true)
  | .handlerTrap code => (cTRAP, code, 0, false)
  | .xlate a => (cXLATE, a, 1, false)
  | .soft a => (cSOFT, a, 2, false)
  | .engine c v => (c, v, 3, false)
  | .watch u => (cWATCH, BitVec.ofNat 64 u, 4, false)
  | .preempt code => (cPREEMPT, code.setWidth 64, 5, true)

/-- Is a report the TRAP of a handler? -/
def Report.ofHandler (r : Report) : Bool := match r with | .handlerTrap _ => true | _ => false

/-- The report that a thread takes next: in a handler its own TRAP; in user mode the first by rank, where a member takes TRAP and
PREEMPT in a freeze that no resume ends, and the others in domain time (R63, R64, R406). -/
def nextReport (s : State) (t : Thread) : Option Report :=
  if t.mode ≠ 0 then t.reports.find? Report.ofHandler
  else
    let stays : Bool := match s.domain t.task.rid with | some d => d.resumeAt.isNone | none => false
    let due (r : Report) : Bool := !t.timed || (if (reportInfo r).2.2.2 then s.frozenFor t && stays else !s.frozenFor t)
    [0, 1, 2, 3, 4, 5].findSome? (fun i => t.reports.find? (fun r => (reportInfo r).2.2.1 = i && due r))

/-- TRAPC.SYL of a report: 6 for TRAP (R407); no rule gives it for the others. -/
def reportSyllable (c : BitVec 16) : Nat := if c = cTRAP then sylC else Config.reportSyl c % 8

/-- The thread in a slot takes a report in place of its next bundle. -/
def takeReport (s : State) (n k : Nat) (r : Report) : State :=
  let (c, v, _, _) := reportInfo r
  takeTrap (s.modThread n k (fun t => { t with reports := t.reports.erase r })) n k c (reportSyllable c) v

/-- Does a slot stand between bundles, so that a reported cause may be taken: no stall, no fetch of a task's first bundle, no fault, no
stop, no save, and not at a gang barrier (R251, R253)? A branch target that misses the bundle buffer keeps no cause waiting. -/
def mayReport (s : State) (n : Nat) (t : Thread) : Bool :=
  t.pipe.stallLeft = 0 && (t.life.started || t.pipe.fetchAt ≤ s.coreClock n) && t.pipe.wait ≠ .gbar && t.life.faulted.isNone && t.life.saving.isNone &&
    !t.life.stopped && !t.life.halted

/-- The report that the thread in a slot takes in this turn, if it takes one: in a freeze whatever it stands at (R63). -/
def reportNow (s : State) (n : Nat) (t : Thread) : Option Report :=
  if s.frozenFor t then (if t.life.stopped || t.life.halted then none else nextReport s t)
  else if mayReport s n t then nextReport s t else none

/-- Does an untimed thread take a debug stop in this turn: after every reported cause (R259)? -/
def stopDue (s : State) (n : Nat) (t : Thread) : Bool :=
  t.life.stopReq && !t.timed && t.mode = 0 && mayReport s n t && (nextReport s t).isNone

/-- The cause that the thread in a slot takes in place of its bundle, if any: a reported one, or a debug stop (R251, R259). -/
def causeNow (s : State) (n k : Nat) (t : Thread) : Option State :=
  match reportNow s n t with
  | some r => some (takeReport s n k r)
  | none =>
    if stopDue s n t then some (s.setThread n k (some { t with life := { t.life with stopped := true } })) else none

/-- TRAP_TAKEN: the thread takes the cause reported to it, or the stop (R251, R252, R259). -/
def execTrapTaken (core slot : Nat) (s : State) : Result :=
  .next (match s.thread core slot with
    | some t => (causeNow s core slot t).getD s
    | none => s)

/-! ### Context saves (R192, R223, R263) -/

/-- May a thread's context be saved: every queued access is performed and every pending load has landed (R223)? -/
def saveReady (s : State) (n : Nat) (t : Thread) : Bool := accessesDone t && !((s.core n).net.misses.any (fun m => m.tid = t.tid))

/-- The BAR 2 offset of frame i of the device's own area (R192, R255, R311; DESIGN CHOICE: the spec gives frames no address; log
entry 19). -/
def frameAt (i : Nat) : Nat := 0x3FC0000000 + 4096 * i

/-- The lowest frame that holds no context. -/
def freeFrame (s : State) : Nat :=
  let used := (s.dies.toList.map (fun d => d.disp.filterMap (fun e => e.frame))).flatten
  ((List.range (used.length + 1)).find? (fun i => !used.contains i)).getD used.length

/-- The save of a translation fault: the context to a frame in the layout of a tail, the page request, and the record back in the
dispatch unit, waiting for the response (R192, R255). -/
def saveFaulted (s : State) (n k : Nat) (t : Thread) (va : Nat) : State :=
  let d := BitVec.ofNat 2 (dieOf n)
  let (req, s) := askPage s d (pasidOf s t.task.rid) va (faultTask t.task)
  let (id, s) := s.newId
  let s := recordThread s n k 0x0A 1 t t.ctl.pc
  let f := freeFrame s
  let lifted := liftValues t.regs (sortFlights t.pipe.flights)
  let s := storeRaw s (plainBytes (keyStack (frameAt f)) (tailBytes t lifted))
  let e : Entry := ⟨id, t.task.rid, t.task.trec, t.task.seq, t.task.spawner, none, id, none, false, some t, some req, 0, false, [], some f⟩
  (s.setThread n k none).modDie d (fun x => { x with disp := x.disp ++ [e] })

/-- The save of an eviction: the tail is written and the thread waits in its slot for its image (R263). -/
def saveEvicted (s : State) (n k : Nat) (t : Thread) : State :=
  let s := recordThread s n k 0x0A 2 t t.ctl.pc
  let (s, t) := saveTail s n k t
  s.setThread n k (some { t with life := { t.life with resuming := true } })

/-- Has a thread a snapshot read that still writes its registers (R161)? -/
def reading (s : State) (n tid : Nat) : Bool := (s.core n).eng.rds.any (fun r => r.head.tid = tid)

/-- Has a thread a snapshot read under way? One that waits for a token has not begun, and may wait for an operation that is to be evicted
with the thread (R161, R167). -/
def readBegun (s : State) (n tid : Nat) : Bool := (s.core n).eng.rds.any (fun r => r.head.tid = tid && r.head.waits.isEmpty)

/-- CONTEXT_SAVE: of a translation fault or an eviction, once the thread's accesses are performed; a faulted thread waits for a place in
its die's dispatch unit (R34, R223). -/
def execContextSave (core slot : Nat) (s : State) : Result :=
  .next (match s.thread core slot with
    | some t =>
      match t.life.saving with
      | none => s
      | some va =>
        if t.life.faulted.isSome || !saveReady s core t || (va = 0 && (t.life.resuming || readBegun s core t.tid)) then s
        else if va = 0 then saveEvicted s core slot t
        else if dispatchFull s (dieOf core) then s
        else saveFaulted s core slot t va
    | none => s)

/-! ### Debug stops (R63, R259, R322) -/

/-- The thread that a host register names: the task of region `rid` in a slot of the core with a VCN. -/
def namedThread (s : State) (rid : BitVec 16) (vcn slot : Nat) : Option (Nat × Thread) :=
  match (s.region rid).bind (fun r => coreOfVcn r vcn) with
  | none => none
  | some n =>
    match s.thread n slot with
    | some t => if t.task.rid = rid && slot < 7 then some (n, t) else none
    | none => none

/-- Is a debug stop requested or in effect? -/
def stopActive (s : State) : Bool :=
  s.bar.dbgwho.isSome || s.cores.any (fun c => c.2.slots.toList.any (fun t => match t with
    | some t => t.life.stopReq || t.life.stopped | none => false))

/-- A debug write was refused. -/
def dbgDrop (s : State) : State := { s with bar := { s.bar with dbgstat := s.bar.dbgstat ||| 0x10000 } }

/-- The report of a stop in effect. -/
def dbgReport (s : State) (n : Nat) (t : Thread) : State :=
  { s with bar := { s.bar with
      dbgstat := (s.bar.dbgstat &&& 0x10000) ||| 0x8000 ||| (originOf n).setWidth 64
      dbgpc := t.ctl.pc, dbgtick := BitVec.ofNat 64 (s.domtick t) } }

/-- The release of a stop in effect: an untimed thread continues from its tail. -/
def releaseStop (s : State) (n k : Nat) (t : Thread) : State :=
  let s := { s with bar := { s.bar with dbgstat := s.bar.dbgstat &&& 0x10FFF, dbgwho := none } }
  if t.timed then
    checkResume (s.setThread n k (some { t with life := { t.life with stopped := false, stopReq := false } })) t.task.rid
  else
    let s := recordThread s n k 0x0B 3 t t.ctl.pc
    reloadThread s n k (fun t => { t with life := { t.life with stopped := false, stopReq := false } })

/-- A member's requested stop takes effect at the freeze; one released before ends at once (R63, R64). -/
def stopMember (s : State) (n k : Nat) : State :=
  match s.thread n k with
  | some t =>
    if !t.timed || !t.life.stopReq then s
    else
      let t' := { t with life := { t.life with stopped := true, stopReq := false } }
      let s := dbgReport (s.setThread n k (some t')) n t'
      if s.bar.dbgwho = some t.tid then s else releaseStop s n k t'
  | none => s

/-- DEBUG_STOP: a stop is requested; of a member it raises a freeze, or joins the one that lasts (R62, R64, R322). -/
def execDebugStop (val : Word) (s : State) : Result :=
  .next (match namedThread s (val.extractLsb' 48 16) (val.extractLsb' 32 16).toNat (val.extractLsb' 29 3).toNat with
    | none => dbgDrop s
    | some (n, t) =>
      if stopActive s then dbgDrop s
      else
        let s := { s with bar := { s.bar with dbgwho := some t.tid } }
        let s := s.modTid n t.tid (fun t => { t with life := { t.life with stopReq := true } })
        if !t.timed then s
        else
          let s := raiseFreeze s t.task.rid 2
          match s.domain t.task.rid with
          | some d => if d.frozen && d.freezeAt.isNone then stopMember s n (val.extractLsb' 29 3).toNat else s
          | none => s)

/-- DEBUG_STOP_DONE: an untimed thread that has stopped and drained is saved and reported (R259). -/
def execDebugStopDone (core slot : Nat) (s : State) : Result :=
  .next (match s.thread core slot with
    | some t =>
      if t.timed || !t.life.stopped || !t.life.stopReq || !t.pipe.flights.isEmpty || !saveReady s core t || reading s core t.tid then s
      else
        let s := recordThread s core slot 0x0A 3 t t.ctl.pc
        let (s, t) := saveTail s core slot t
        let t := { t with life := { t.life with stopReq := false } }
        dbgReport (s.setThread core slot (some t)) core t
    | none => s)

/-- DEBUG_RELEASE: a stop in effect ends; one not yet in effect is withdrawn, or for a member ends in the clock of its
freeze (R64, R322). -/
def execDebugRelease (val : Word) (s : State) : Result :=
  .next (let k := (val.extractLsb' 29 3).toNat
    match namedThread s (val.extractLsb' 48 16) (val.extractLsb' 32 16).toNat k with
    | none => dbgDrop s
    | some (n, t) =>
      if s.bar.dbgwho ≠ some t.tid then dbgDrop s
      else if t.life.stopped && !t.life.stopReq then releaseStop s n k t
      else if t.timed then { s with bar := { s.bar with dbgwho := none } }
      else
        let s := { s with bar := { s.bar with dbgwho := none } }
        s.setThread n k (some { t with life := { t.life with stopped := false, stopReq := false } }))

/-! ### Freeze and resume (R62 to R64, R274) -/

/-- A record of a domain on each member core, in the domain's lowest slot (R453). -/
def recordDomain (s : State) (d : Domain) (ty x : Nat) : State :=
  match s.region d.root with
  | some r =>
    let k := ((List.range 7).find? (fun i => r.tslots.getLsbD i)).getD 0
    r.cores.foldl (fun s n => recordCore s n ty k r.tag (cForm x 0 d.ticks) (some 0) none) s
  | none => s

/-- DOMAIN_FREEZE: from clock f the domain is frozen (R62, R63). -/
def execDomainFreeze (rid : BitVec 16) (s : State) : Result :=
  .next (match s.domains.find? (fun d => d.root = rid) with
    | none => s
    | some d =>
      match d.freezeAt with
      | none => s
      | some f =>
        if domClock s d < f || d.frozen then s
        else
          let s := s.modDomain rid (fun d => { d with frozen := true, freezeAt := none, since := f })
          let s := recordDomain s d 0x07 d.cause.toNat
          (match s.region rid with | some r => r.cores | none => []).foldl (fun s n =>
            allSlots.foldl (fun s k => match s.thread n k with
              | some t => if s.within rid t.task.rid then stopMember s n k else s
              | none => s) s) s)

/-- DOMAIN_RESUME: from clock s the domain runs again (R64). -/
def execDomainResume (rid : BitVec 16) (s : State) : Result :=
  .next (match s.domains.find? (fun d => d.root = rid) with
    | none => s
    | some d =>
      match d.resumeAt with
      | none => s
      | some r =>
        if domClock s d < r || !d.frozen then s
        else
          let s := s.modDomain rid (fun d => { d with frozen := false, resumeAt := none })
          recordDomain s d 0x08 (min 0x1FFFFF ((r - d.since) / 8)))

/-! ### The gang barrier (R359) -/

/-- GBAR_RELEASE: with every member arrived, all waits end; each issues in its next turn, 8 clocks after the last
arrival. -/
def execGbarRelease (core slot : Nat) (s : State) : Result :=
  .next (match s.thread core slot with
    | some t =>
      let all := t :: gangMates s core slot t
      if all.length ≠ t.task.size || !all.all atBarrier then s
      else
        (gangCores t.task.base t.task.size).foldl (fun s n => s.modThread n slot (fun m =>
          { m with
            pipe := { m.pipe with wait := if m.pipe.wait = .gbar then .none else m.pipe.wait }
            life := { m.life with gbarDone := true, atBar := false } })) s
    | none => s)

end Sys2Proof.Machine
end

