-- ==== Sys2Proof/Machine/Regions.lean ====
section
/-! DEFINITION. Interrupts and region operations: park, resume, evict, restore, teardown, and the end of a fault domain
(R168, R260 to R265, R282, R283). -/

namespace Sys2Proof.Machine

/-! ### REGOP (R261) -/

/-- Is a region inside a function's subtree (R312)? -/
def fnOwns (s : State) (f : Fn) (rid : BitVec 16) : Bool :=
  match f with
  | .pf => true
  | .vf n => (vfBind s n).getLsbD 63 && s.within ((vfBind s n).extractLsb' 32 16) rid

/-- REGOPST with an outcome. -/
def opStatus (s : State) (f : Fn) (rid : BitVec 16) (st : Nat) : State :=
  s.modFn f (fun x => { x with regopst := (x.regopst &&& 0x100) ||| BitVec.ofNat 64 (rid.toNat * 2 ^ 48 + st) })

/-- REGOPST with an operation in progress. -/
def opBusy (s : State) (f : Fn) (rid : BitVec 16) : State :=
  s.modFn f (fun x => { x with regopst := (x.regopst &&& 0x1FF) ||| BitVec.ofNat 64 (rid.toNat * 2 ^ 48 + 0x200) })

/-- The function whose operation on a region is in progress. -/
def busyFn (s : State) (rid : BitVec 16) : Option Fn :=
  (s.bar.fns.find? (fun e => e.2.regopst.getLsbD 9 && e.2.regopst.extractLsb' 48 16 = rid)).map (fun e => e.1)

/-- The common checks of a region operation: a write while busy is discarded (R261, R316). -/
def regop (s : State) (f : Fn) (val : Word) (act : Region → State) : State :=
  let rid : BitVec 16 := val.extractLsb' 48 16
  if !accepting s || (s.fnRegs f).regopst.getLsbD 9 then s.modFn f (fun x => { x with regopst := x.regopst ||| 0x100 })
  else
    match s.region rid with
    | none => opStatus s f rid 0x21
    | some r => if fnOwns s f rid then act r else opStatus s f rid 0x25

/-- The die of a region's first core, whose Cellar records its operations. -/
def regionDie (r : Region) : BitVec 2 := BitVec.ofNat 2 (dieOf (r.cores.headD 0))

/-- A REGIONOP record (R274). -/
def recordOp (s : State) (r : Region) (op : Nat) : State :=
  recordDie s (regionDie r) 0x1A r.tag (BitVec.ofNat 82 (r.rid.toNat * 2 ^ 66 + op * 2 ^ 62))

/-- Change every region of a subtree in a phase. -/
def modPhase (s : State) (root : BitVec 16) (was : Phase) (f : Region → Region) : State :=
  let ids := (s.subtree root).map (fun r => r.rid)
  { s with regions := s.regions.map (fun r => if ids.contains r.rid && r.phase = was then f r else r) }

/-- Is any region of a subtree in a timed domain? -/
def anyTimed (s : State) (root : BitVec 16) : Bool := (s.domain root).isSome || (s.subtree root).any (fun r => (s.domain r.rid).isSome)

/-- The ids of a subtree. -/
def subtreeIds (s : State) (root : BitVec 16) : List (BitVec 16) := (s.subtree root).map (fun r => r.rid)

/-! ### Park and resume (R262) -/

/-- PARK: placement of the region's tasks stops (R261, R262). -/
def execPark (fn : Fn) (val : Word) (s : State) : Result :=
  .next (regop s fn val (fun r =>
    if anyTimed s r.rid then opStatus s fn r.rid 0x22
    else if r.phase ≠ .live then opStatus s fn r.rid 0x23
    else opBusy (modPhase s r.rid .live (fun q => { q with phase := .parking })) fn r.rid))

/-- Does nothing of a subtree run: no task in a slot or saved, and, though R262 speaks of tasks alone, no access, E instruction or
packet of an ended task under way (DESIGN CHOICE, unsafe; log entry 36)? -/
def nothingRuns (s : State) (root : BitVec 16) : Bool :=
  let ids := subtreeIds s root
  s.cores.all (fun c =>
    c.2.slots.toList.all (fun t => match t with | some t => !ids.contains t.task.rid | none => true) &&
    c.2.ended.all (fun t => !ids.contains t.task.rid || (t.orderQ.isEmpty && !c.2.net.misses.any (fun m => m.tid = t.tid))) &&
    (openHeads c.2).all (fun h => !ids.contains h.rid)) &&
  s.net.all (fun p => !ids.contains p.head.rid) &&
  s.dies.toList.all (fun d => d.disp.all (fun e => e.saved.isNone || !ids.contains e.rid))

/-- PARK_DONE: when no task of the subtree runs, it is parked (R262). -/
def execParkDone (rid : BitVec 16) (s : State) : Result :=
  .next (match s.region rid, busyFn s rid with
    | some r, some f =>
      if r.phase ≠ .parking || !nothingRuns s rid then s
      else recordOp (opStatus (modPhase s rid .parking (fun q => { q with phase := .parked })) f rid 0x01) r 1
    | _, _ => s)

/-- Are the cores of a switched-out subtree free, and its ancestors placed (R262, R264)? -/
def coresFree (s : State) (root : BitVec 16) (was : Phase) : Bool :=
  (s.subtree root).all (fun q => !(q.own && q.phase = was) ||
    (let free := freeCores s (s.region q.parent) q.parent q.rid
     q.cores.all (fun n => free.contains n)))

/-- Are the ancestors of a region placed? A RESUME or RESTORE below one that is not gives STATE, not NOSPACE (DESIGN CHOICE, unsafe: R261
and R262 name no case of it; log entry 36). -/
def ancestorsPlaced (s : State) (r : Region) : Bool := (s.ancestry r.parent).all (fun q => !switchedOut q)

/-- The cores that other regions took from a parked region: zeros for its return (R262). -/
def cleanTaken (s : State) (q : Region) : State :=
  q.taken.foldl (fun s n => (zeroScratch s n).modCore n clearEngine) s

/-- RESUME (R261, R262). -/
def execResume (fn : Fn) (val : Word) (s : State) : Result :=
  .next (regop s fn val (fun r =>
    if r.phase ≠ .parked || !ancestorsPlaced s r then opStatus s fn r.rid 0x23
    else if !coresFree s r.rid .parked then opStatus s fn r.rid 0x24
    else
      let back := (s.subtree r.rid).filter (fun q => q.phase = .parked)
      let s := back.foldl cleanTaken s
      let s := noteTaken s (subtreeIds s r.rid) ((back.filter (fun q => q.own)).map (fun q => q.cores)).flatten
      let s := expirePackets s (regionCores s r.rid) (subtreeIds s r.rid)
      recordOp (opStatus (modPhase s r.rid .parked (fun q => { q with phase := .live, taken := [] })) fn r.rid 0x01) r 2))

/-! ### Evict and restore (R263, R264) -/

/-- EVICT: placement stops and each thread leaves at its next issue opportunity (R261, R263). -/
def execEvict (fn : Fn) (val : Word) (s : State) : Result :=
  .next (regop s fn val (fun r =>
    if anyTimed s r.rid then opStatus s fn r.rid 0x22
    else if r.phase ≠ .live then opStatus s fn r.rid 0x23
    else
      let s := s.modRegion r.rid (fun q => { q with area := (val.extractLsb' 20 28).toNat * 2 ^ 20 })
      opBusy (modPhase s r.rid .live (fun q => { q with phase := .evicting })) fn r.rid))

/-- Is a thread of an evicted region saved (R263)? -/
def Thread.savedOut (t : Thread) : Bool := t.life.saving = some 0 && t.life.resuming

/-- Does a job of a region stand still: it waits for tokens of held operations, with nothing of it begun? -/
def Job.still (j : Job) : Bool := !j.head.waits.isEmpty

/-- May the images of a subtree be written: threads saved, no access left, gang operations at a step boundary, copies
complete, no packet under way, no Attic work (R263)? -/
def evictReady (s : State) (r : Region) : Bool :=
  let ids := subtreeIds s r.rid
  let mine (h : EHead) : Bool := ids.contains h.rid
  s.cores.all (fun c =>
    c.2.slots.toList.all (fun t => match t with | some t => !ids.contains t.task.rid || t.savedOut | none => true) &&
    c.2.ended.all (fun t => !ids.contains t.task.rid || (t.orderQ.isEmpty && !c.2.net.misses.any (fun m => m.tid = t.tid))) &&
    (match c.2.eng.run with | some x => !mine x.head || x.steps.isEmpty | none => true) &&
    c.2.eng.rds.all (fun x => !mine x.head || x.got.isNone) &&
    c.2.net.jobs.all (fun j => !mine j.head || j.still) && (!r.own || !r.cores.contains c.1 || c.2.net.landing.isEmpty)) &&
  s.net.all (fun p => !mine p.head)

/-- Byte o of the eviction image of a core (R263). -/
def imageByte (s : State) (n draw o : Nat) : Byte :=
  if o < 0x80000 then Memory.read s.mem (keyL n o)
  else if o < 0xA0000 then
    let i := o - 0x80000
    BitVec.ofInt 8 ((columnOf (s.core n).mx (64 * (i / 0x8000) + i % 64)).getD (i % 0x8000 / 64) 0)
  else if o < 0xA2000 then
    let i := (o - 0xA0000) / 2
    let w := Config.ebWord ((columnExps (s.core n).mx (i / 16)).getD (i % 16) 0) ((s.core n).mx.bloss.contains i)
    if o % 2 = 0 then w.extractLsb' 0 8 else w.extractLsb' 8 8
  else if o < 0xC2000 then Config.sealedByte draw 0 (o - 0xA2000)
  else if o < 0xD2000 then Config.sealedByte draw 1 (o - 0xC2000)
  else 0

/-- The keys of the pages of a region's images: 256 pages of 4 KiB for each VCN (R263). -/
def imageKeys (s : State) (r : Region) (p : Perm) (l : List Nat) : Except Stop (List Nat) :=
  match l with
  | [] => .ok []
  | i :: l =>
    match devKey s r.pasid p (r.area + i * 4096) with
    | .error e => .error e
    | .ok key => match imageKeys s r p l with | .ok k => .ok (key :: k) | .error e => .error e

/-- Ask for a page that a region operation needs, once at a time. -/
def opAsk (s : State) (r : Region) (va : Word) (fault write : Bool) : State :=
  if fault && (s.die 0).reqs.any (fun q => q.pasid = r.pasid && q.page = va.toNat / 4096 * 4096) then s
  else (devAsk s r.pasid va fault write r.tag).2

/-- Write page i of the images. -/
def writeImagePage (s : State) (r : Region) (seals : List (Nat × Nat)) (i key : Nat) : State :=
  let v := i / 256
  let n := r.cores.getD v 0
  storeDev s (plainBytes key ((List.range 4096).map (fun j => imageByte s n (assocGet seals v 0) (i % 256 * 4096 + j))))

/-- A core's engine with the operations of some headers only. -/
def keepOps (p : EHead → Bool) (e : Engine) : Engine :=
  { e with
    queue := e.queue.filter (fun q => p q.head)
    run := e.run.bind (fun r => if p r.head then some r else none)
    rds := e.rds.filter (fun r => p r.head) }

/-- What an image keeps of a core: the subtree's threads and operations, and the core's state; of a core shared with the parent the
emission buffer only where the subtree filled it (R167, R263). -/
def imageCore (ids : List (BitVec 16)) (own : Bool) (c : Core) : Core :=
  let e := keepOps (fun h => ids.contains h.rid) c.eng
  { c with
    slots := c.slots.map (fun t => t.bind (fun t => if ids.contains t.task.rid then some t else none)), ended := []
    eng := if own || ids.contains e.emitBy then e else { e with emit := [] }
    net := { c.net with jobs := c.net.jobs.filter (fun j => ids.contains j.head.rid), misses := [] } }

/-- A core after its region is evicted: the subtree's threads and operations are gone, and of a region with its own placement
the buffers and messages. -/
def freedCore (ids : List (BitVec 16)) (own : Bool) (c : Core) : Core :=
  let c := { c with
    slots := c.slots.map (fun t => t.bind (fun t => if ids.contains t.task.rid then none else some t))
    eng := keepOps (fun h => !ids.contains h.rid) c.eng
    net := { c.net with jobs := c.net.jobs.filter (fun j => !ids.contains j.head.rid) } }
  if !own then (if ids.contains c.eng.emitBy then { c with eng := { c.eng with emit := [] } } else c)
  else { c with eng := { c.eng with qma := [], qmr := [], emit := [] }, net := { c.net with inbox := [], heap := [] } }

/-- EVICT_DONE: the images are written, the cores are freed (R263). -/
def execEvictDone (rid : BitVec 16) (s : State) : Result :=
  .next (match s.region rid, busyFn s rid with
    | some r, some f =>
      if r.phase ≠ .evicting || !evictReady s r then s
      else
        let pages := List.range (256 * r.cores.length)
        match imageKeys s r .w pages with
        | .error (.ask va fault) => opAsk s r va fault true
        | .error _ => s
        | .ok keys =>
          let seals := (List.range r.cores.length).map (fun v => (v, s.sched.fresh + v))
          let s := { s with sched := { s.sched with fresh := s.sched.fresh + r.cores.length } }
          let s := r.cores.foldl (fun s n => noteRead s (.core n) 8 none (keyL n 0) 0x80000) s
          let s := (pages.zip keys).foldl (fun s e => writeImagePage s r seals e.1 e.2) s
          let ids := subtreeIds s rid
          let kept := r.cores.map (fun n => (n, imageCore ids r.own (s.core n)))
          let s := r.cores.foldl (fun s n => s.modCore n (freedCore ids r.own)) s
          let s := modPhase s rid .evicting (fun q => { q with phase := .evicted })
          let s := s.modRegion rid (fun q => { q with seals := seals, evicted := kept })
          recordOp (opStatus s f rid 0x01) r 3
    | _, _ => s)

/-- The key of byte o of the image of a VCN. -/
def imageSpot (keys : List Nat) (v o : Nat) : Nat := keys.getD (256 * v + o / 4096) 0 + o % 4096

/-- Does a sealed block of an image fail its tag (R263, R264)? -/
def sealBad (s : State) (keys : List Nat) (v draw : Nat) : Bool :=
  (List.range 0x30000).any (fun i => Memory.read s.mem (imageSpot keys v (0xA2000 + i)) ≠
    (if i < 0x20000 then Config.sealedByte draw 0 i else Config.sealedByte draw 1 (i - 0x20000)))

/-- The weights of an image, by column. -/
def imageWeights (s : State) (keys : List Nat) (v : Nat) : List (Nat × List Int) :=
  (List.range 256).map (fun col => (col, (List.range 512).map (fun k =>
    (Memory.read s.mem (imageSpot keys v (0x80000 + 0x8000 * (col / 64) + 64 * k + col % 64))).toInt)))

/-- The matrix state of an image: weights, block exponents and loss flags from its bytes, the sealed part as it was; bits that
the device wrote mean what they meant (R263, R264). -/
def imageMatrix (s : State) (keys : List Nat) (v : Nat) (x : Matrix) : Matrix :=
  let cell (i : Nat) : Int × Bool :=
    let e := (columnExps x (i / 16)).getD (i % 16) 0
    let w : BitVec 16 := Memory.read s.mem (imageSpot keys v (0xA0000 + 2 * i + 1)) ++
      Memory.read s.mem (imageSpot keys v (0xA0000 + 2 * i))
    if w = Config.ebWord e (x.bloss.contains i) then (e, x.bloss.contains i) else Config.ebValue w
  { x with
    cim := imageWeights s keys v
    eb := (List.range 256).map (fun c => (c, (List.range 16).map (fun q => (cell (16 * c + q)).1)))
    bloss := (List.range 4096).filter (fun i => (cell i).2) }

/-- Has an image of a core operations of the gang engine? -/
def hasOps (c : Core) : Bool := c.eng.run.isSome || !c.eng.queue.isEmpty || !c.eng.rds.isEmpty

/-- A thread of an image takes its slot again and resumes from its tail (R264, R274). -/
def restoreThread (s : State) (n k : Nat) (t : Thread) : State :=
  let (f, s) := placeFetch s n
  let s := resumeThread s n k t f
  let s := recordThread s n k 0x0B 2 t t.ctl.pc
  reloadThread s n k id

/-- A core comes back from its image. On cores that a region shares with its parent the matrix state and the engine come back
where operations of the region stood in it, before those that stand there now, and rows that it had still to emit stand in the
emission buffer again (R167, R264; log entry 35). -/
def restoreCore (s : State) (r : Region) (keys : List Nat) (v : Nat) (e : Nat × Core) : State :=
  let n := e.1
  let bytes := (List.range 0x80000).map (fun o => Memory.read s.mem (imageSpot keys v o))
  let s := storeRaw s (plainBytes (keyL n 0) bytes)
  let mx := imageMatrix s keys v e.2.mx
  let s := s.modCore n (fun c =>
    let eng (g : Engine) : Engine := { g with
      queue := e.2.eng.queue ++ c.eng.queue, run := e.2.eng.run.or c.eng.run, rds := e.2.eng.rds ++ c.eng.rds }
    if r.own then { c with
      mx := mx, eng := eng e.2.eng, owner := e.2.owner, dirty := e.2.dirty
      net := { e.2.net with
        jobs := e.2.net.jobs ++ c.net.jobs, misses := c.net.misses, landing := c.net.landing, router := c.net.router } }
    else
      let shared := { e.2.eng with qma := c.eng.qma, qmr := c.eng.qmr, emit := c.eng.emit, emitBy := c.eng.emitBy }
      let c := if hasOps e.2 then { c with mx := mx, eng := eng shared } else c
      let c := if e.2.eng.emit.isEmpty then c else { c with eng := { c.eng with emit := e.2.eng.emit, emitBy := e.2.eng.emitBy } }
      { c with net := { c.net with jobs := e.2.net.jobs ++ c.net.jobs } })
  allSlots.foldl (fun s k => match (e.2.slots[k]?).join with | some t => restoreThread s n k t | none => s) s

/-- The regions whose images a region's own area holds: its subtree but for those evicted before it into areas of their own, with
theirs, which stay evicted (R263, R264). -/
def imageIds (s : State) (root : BitVec 16) : List (BitVec 16) :=
  ((s.subtree root).filter (fun q => ((s.ancestry q.rid).takeWhile (fun a => a.rid ≠ root)).all (fun a => a.evicted.isEmpty))).map
    (fun q => q.rid)

/-- Change the regions with some ids that are in a phase. -/
def modIds (s : State) (ids : List (BitVec 16)) (was : Phase) (f : Region → Region) : State :=
  { s with regions := s.regions.map (fun r => if ids.contains r.rid && r.phase = was then f r else r) }

/-- The images are checked and streamed back, once every page of them is at hand (R264). -/
def continueRestore (s : State) (f : Fn) (r : Region) : State :=
  let pages := List.range (256 * r.cores.length)
  match imageKeys s r .r pages with
  | .error (.ask va fault) => opAsk s r va fault false
  | .error _ => opStatus (modPhase s r.rid .restoring (fun q => { q with phase := .evicted })) f r.rid 0x26
  | .ok keys =>
    let s := keys.foldl (fun s k => devRead s k 4096) s
    if r.seals.any (fun e => sealBad s keys e.1 e.2) then
      opStatus (modPhase s r.rid .restoring (fun q => { q with phase := .evicted })) f r.rid 0x26
    else
      let s := expirePackets s r.cores (subtreeIds s r.rid)
      let s := if r.own then noteTaken s (subtreeIds s r.rid) r.cores else s
      let s := modPhase s r.rid .restoring (fun q => { q with phase := .live })
      let s := s.modRegion r.rid (fun q => { q with seals := [], evicted := [] })
      let s := (r.evicted.zipIdx).foldl (fun s e => restoreCore s r keys e.2 e.1) s
      recordOp (opStatus s f r.rid 0x01) r 4

/-- Are the slots of an image's threads free, and the engines in which its operations are to run again? -/
def slotsFree (s : State) (r : Region) : Bool :=
  r.evicted.all (fun e => !(e.2.eng.run.isSome && (s.core e.1).eng.run.isSome) &&
    (e.2.eng.emit.isEmpty || (s.core e.1).eng.emit.isEmpty || r.own) && allSlots.all (fun k => (e.2.slots[k]?).join.isNone || (s.thread e.1 k).isNone))

/-- RESTORE (R261, R264). -/
def execRestore (fn : Fn) (val : Word) (s : State) : Result :=
  .next (regop s fn val (fun r =>
    if r.phase ≠ .evicted || r.evicted.isEmpty || !ancestorsPlaced s r then opStatus s fn r.rid 0x23
    else if !coresFree s r.rid .evicted || !slotsFree s r then opStatus s fn r.rid 0x24
    else
      let s := s.modRegion r.rid (fun q => { q with area := (val.extractLsb' 20 28).toNat * 2 ^ 20 })
      let s := opBusy (modIds s (imageIds s r.rid) .evicted (fun q => { q with phase := .restoring })) fn r.rid
      match s.region r.rid with
      | some r => continueRestore s fn r
      | none => s))

/-- The restores that wait for a page go on. -/
def resumeRestores (s : State) : State :=
  s.regions.foldl (fun s r =>
    match busyFn s r.rid with
    | some f => if r.phase = .restoring && !r.evicted.isEmpty then continueRestore s f r else s
    | none => s) s

/-! ### The end of regions (R168, R265) -/

/-- A core without the aborted threads and engine work of ended regions; places of QMA that pushes of theirs had reserved are given back
(DESIGN CHOICE, unsafe: R81 and R265 do not say what becomes of such a place; log entry 63). -/
def abortCore (ids : List (BitVec 16)) (c : Core) : Core :=
  let gone (h : EHead) : Bool := ids.contains h.rid
  let tids := ((coreThreads c).filter (fun t => ids.contains t.task.rid)).map (fun t => t.tid)
  { c with
    slots := c.slots.map (fun t => t.bind (fun t => if ids.contains t.task.rid then none else some t))
    ended := c.ended.filter (fun t => !ids.contains t.task.rid)
    eng := { c.eng with
      queue := c.eng.queue.filter (fun q => !gone q.head)
      run := c.eng.run.bind (fun r => if gone r.head then none else some r)
      rds := c.eng.rds.filter (fun r => !gone r.head)
      qma := c.eng.qma.filter (fun p => !(tids.contains p.tid && p.val.isNone)) }
    net := { c.net with
      jobs := c.net.jobs.filter (fun j => !gone j.head)
      misses := c.net.misses.filter (fun m => !tids.contains m.tid)
      router := if c.net.router.dom.any (fun d => ids.contains d) then Router.reset
        else { c.net.router with next := c.net.router.next.filter (fun e => !gone e.2) } }
    owner := c.owner.bind (fun r => if ids.contains r then none else some r)
    cache := { c.cache with held := c.cache.held.filter (fun h => !ids.contains h.rid) } }

/-- A die without the records and armed entries of ended regions. -/
def abortDie (ids : List (BitVec 16)) (d : Die) : Die :=
  { d with
    disp := d.disp.filter (fun e => !ids.contains e.rid)
    rm := d.rm.map (fun e => if ids.contains e.2.rid then (e.1, { e.2 with ctl := e.2.ctl &&& 0x7F }) else e) }

/-- Bit 63 of a counter is set, which its SEQWAITs see, or waits for its page, which the device translates, or asks the host for, with
RTAG 0 in the fault's record (R194, R265, R274; DESIGN CHOICE, unsafe: the pool's region has ended, and R274 gives no RTAG; log
entry 69). -/
def poisonCounter (s : State) (pasid : BitVec 20) (va : Nat) : State :=
  match s.known.find? (fun x => covers x pasid va && Perm.granted .rw x && !reservedKey (xlateKey x va)) with
  | some x => notifyCounter (storeDev s [(xlateKey x va + 7, 0x80, 0x80)]) (xlateKey x va)
  | none =>
    let t := { s with toPoison := s.toPoison ++ [(pasid, va)] }
    if (devXlate s pasid va).isNone then askXlate t 0 pasid va
    else if (s.die 0).reqs.any (fun q => q.pasid = pasid && q.page = va / 4096 * 4096) then t
    else (devAsk t pasid (BitVec.ofNat 64 va) true true 0).2

/-- The counters of the pools of some regions. -/
def poolCounters (l : List Region) : List (BitVec 20 × Nat) :=
  let pools := (l.map (fun r => (r.pasid, r.pool.toNat, r.pooln))).eraseDups
  (pools.map (fun p => (List.range p.2.2).map (fun i => (p.1, p.2.1 + 8 * i)))).flatten

/-- Does a record name a counter that is poisoned? -/
def namesPoison (s : State) (e : Entry) : Bool :=
  e.saved.isNone && (parseTrec e.trec).used.any (fun p =>
    let va := counterAddr s e.rid (BitVec.ofNat 64 p.1)
    match s.known.find? (fun x => covers x (pasidOf s e.rid) va.toNat) with
    | some x => (Memory.read s.mem (xlateKey x va.toNat + 7)).getLsbD 7
    | none => false)

/-- The queued records that name a poisoned counter are discarded unrun, ready or not, in any region (R33, R265). -/
def discardPoisoned (s : State) : State :=
  { s with dies := s.dies.map (fun d => { d with disp := d.disp.filter (fun e => !namesPoison s e) }) }

/-- Every waiting record that names a counter is evaluated (R265, R32). -/
def wakeAll (s : State) : State :=
  [(0 : BitVec 2), 1, 2, 3].foldl (fun s d =>
    ((s.die d).disp.filter (fun e => e.ready.isNone && e.saved.isNone && !(parseTrec e.trec).used.isEmpty)).foldl
      (fun s e => scheduleReady s d e.id 64) s) s

/-- A region of a set ends: RCB, tag, manifest and the host's event (R265, R272, R307, R314). -/
def closeRegion (s : State) (r : Region) (st : Nat) : State :=
  let s := storeDev s (plainBytes (r.rcb + 128) (leBytes st 8))
  let s := { s with
    vault := { s.vault with assigns := s.vault.assigns.map (fun a =>
      if a.tag = r.tag && a.stop.isNone then { a with stop := some s.gtime } else a) }
    manifests := s.manifests.map (fun m => if m.rid = r.rid && !m.closed then { m with closed := true, flags := m.flags ||| 9 } else m) }
  eventTo s r.fn 1 r.rid.toNat (st + (if st = 3 then (r.cause.getD 0).toNat * 2 ^ 16 else 0))

/-- A held message or packet for an ended region, of a sender that lives (R244, R265). -/
def heldFor (ids : List (BitVec 16)) (p : Packet) : Bool :=
  p.held.isSome && (p.heldFor.any (fun r => ids.contains r) ||
    (match p.cargo with | .msg drid .. => ids.contains drid | _ => false))

/-- A packet discarded because its destination's region ended. -/
def discardHeld (s : State) (p : Packet) : State :=
  match p.cargo with
  | .chunk tag .. =>
    match copyJob s p.src tag with
    | some (j, _, _) => failCopy s p.src j tag cABSENT p.val
    | none => dropPacket s p.id
  | _ => refusePacket s p cABSENT

/-- A region and its descendants begin to end, with the STATE that they are to have: 2 for a teardown, 3 for a fault. Tasks and
accesses are gone at once and the counters of their pools are poisoned, but for those whose pages are still to come; a region
operation that was in progress on one of them finds no region (R168, R265). -/
def beginEnd (s : State) (root : BitVec 16) (st : Nat) : State :=
  let set := s.subtree root
  let ids := set.map (fun r => r.rid)
  let fresh := (set.filter (fun r => r.closing.isNone)).map (fun r => r.rid)
  let misses := (s.cores.map (fun c =>
    let tids := ((coreThreads c.2).filter (fun t => ids.contains t.task.rid)).map (fun t => t.tid)
    (c.2.net.misses.filter (fun m => tids.contains m.tid)).map (fun m => m.id))).flatten
  let cores := (set.map (fun r => r.cores)).flatten
  let s := { s with
    cores := s.cores.map (fun (c : Nat × Core) => (c.1, abortCore ids c.2))
    dies := s.dies.map (fun (d : Die) => abortDie ids d)
    net := s.net.filter (fun (p : Packet) => !ids.contains p.head.rid)
    snet := s.snet.filter (fun (p : SnPacket) => !ids.contains p.head.rid && !ids.contains p.dom)
    deferred := s.deferred.filter (fun (d : Deferred) => !misses.contains d.miss)
    regions := s.regions.map (fun (r : Region) =>
      let r := { r with evicted := r.evicted.map (fun (e : Nat × Core) => (e.1, abortCore ids e.2)) }
      if ids.contains r.rid then { r with phase := .ending, closing := r.closing.or (some st) } else r) }
  let s := { s with cores := cores.eraseDups.foldl (fun l n => assocSet l n { assocGet l n Core.reset with dirty := true }) s.cores }
  let s := { s with bar := { s.bar with fns := s.bar.fns.map (fun (e : Fn × FnRegs) =>
    if e.2.regopst.getLsbD 9 && fresh.contains (e.2.regopst.extractLsb' 48 16) then
      (e.1, { e.2 with regopst := (e.2.regopst &&& 0xFFFF000000000100) ||| 0x21 }) else e) } }
  let s := (poolCounters set).foldl (fun s c => poisonCounter s c.1 c.2) (endStop s)
  wakeAll (discardPoisoned s)

/-- The end of a region and its descendants is complete: packets held for them are discarded, their RCBs take their STATE and
a TEARDOWN is DONE. A domain whose last handler was among them resumes (R64, R265; log entry 39). -/
def finishEnd (s : State) (root : BitVec 16) : State :=
  let set := s.subtree root
  let ids := set.map (fun r => r.rid)
  let s := match s.region root with | some r => recordOp s r (if r.closing = some 2 then 5 else 7) | none => s
  let s := set.foldl (fun s r => closeRegion s r (r.closing.getD 2)) s
  let s := (s.net.filter (heldFor ids)).foldl discardHeld s
  let s := (s.inbound.filter (heldFor ids)).foldl (fun s p => answerPeer s p.id (some cABSENT)) s
  let s := { s with
    regions := s.regions.filter (fun r => !ids.contains r.rid)
    domains := s.domains.filter (fun d => !ids.contains d.root) }
  let s := { s with bar := { s.bar with fns := s.bar.fns.map (fun (e : Fn × FnRegs) =>
    if e.2.regopst.getLsbD 9 && ids.contains (e.2.regopst.extractLsb' 48 16) then
      (e.1, { e.2 with regopst := (e.2.regopst &&& 0xFFFF000000000100) ||| 1 }) else e) } }
  wakeAll (discardPoisoned <| s.domains.foldl (fun s (d : Domain) => checkResume s d.root) s)

/-- Does a counter of the pools of a subtree still wait to be poisoned? -/
def poisonPending (s : State) (root : BitVec 16) : Bool :=
  let l := poolCounters (s.subtree root)
  s.toPoison.any (fun c => l.contains c)

/-- An end that has begun is completed once every counter is poisoned (R265). -/
def settleEnd (s : State) (root : BitVec 16) : State := if poisonPending s root then s else finishEnd s root

/-- The ends that have begun, but for those within another that has, are completed where they can be. -/
def settleEnds (s : State) : State :=
  (s.regions.filter (fun r => r.closing.isSome && !(s.region r.parent).any (fun p => p.closing.isSome))).foldl
    (fun s r => settleEnd s r.rid) s

/-- TEARDOWN: DONE once the region has ended (R261, R265). -/
def execTeardown (fn : Fn) (val : Word) (s : State) : Result :=
  .next (regop s fn val (fun r =>
    if r.phase = .ending then opStatus s fn r.rid 0x23 else settleEnd (opBusy (beginEnd s r.rid 2) fn r.rid) r.rid))

/-- May a fault domain end: at once, or once the wave has reached every Cellar of its captures (R282, R283)? -/
def endDue (s : State) (r : Region) : Bool :=
  r.phase = .ending && r.closing.isNone && (match s.region r.parent with | some p => p.phase ≠ .ending | none => true) &&
    (r.endNow || s.vault.taking.all (fun c => !(c.rid = none || c.rid = some r.rid) || c.wanted.isEmpty))

/-- FAULT_DOMAIN_END (R265, R283). -/
def execFaultDomainEnd (rid : BitVec 16) (s : State) : Result :=
  .next (match s.region rid with
    | some r => if endDue s r then settleEnd (beginEnd s rid 3) rid else s
    | none => s)

/-! ### Interrupts (R260) -/

/-- THRINT: an interrupt of the task in a slot; of a member it raises a freeze (R62, R260). -/
def execThrint (fn : Fn) (val : Word) (s : State) : Result :=
  .next (let rid : BitVec 16 := val.extractLsb' 48 16
    let k := (val.extractLsb' 29 3).toNat
    match (if fnOwns s fn rid then namedThread s rid (val.extractLsb' 32 16).toNat k else none) with
    | none => s.modFn fn (fun x => { x with thrdrop := true })
    | some (n, t) =>
      let s := s.setThread n k (some { t with reports := t.reports ++ [.preempt (val.extractLsb' 0 16)] })
      if t.timed then raiseFreeze s rid 0 else s)

end Sys2Proof.Machine
end

