-- ==== Sys2Proof/Machine/ScalarFp.lean ====
section
/-! DEFINITION. Meanings of the scalar floating-point syllables of slots X and Y (R325, R346 to R355). -/

namespace Sys2Proof.Machine

/-- A two-source F32 syllable, rounded by THS.RM at issue (R325). -/
def fpOp2 (s : State) (cl : Cl) (d a b : Reg) (lat : Nat) (g : Guard) (f : Nat → Nat → Nat → Nat × BitVec 5) : State :=
  scalarOp s (Cl.reg cl d) lat g (fun t => f32Word (f t.rm (f32Of (t.regs.getS cl a)) (f32Of (t.regs.getS cl b))))

/-- A one-source F32 syllable (R325). -/
def fpOp1 (s : State) (cl : Cl) (d a : Reg) (lat : Nat) (g : Guard) (f : Nat → Nat → Nat × BitVec 5) : State :=
  scalarOp s (Cl.reg cl d) lat g (fun t => f32Word (f t.rm (f32Of (t.regs.getS cl a))))

/-- A fused syllable, which reads D as a third source (R353). -/
def fpFma (s : State) (cl : Cl) (neg : Bool) (d a b : Reg) (g : Guard) : State :=
  scalarOp s (Cl.reg cl d) 3 g (fun t =>
    f32Word (fFma fmtF32 t.rm neg (f32Of (t.regs.getS cl d)) (f32Of (t.regs.getS cl a)) (f32Of (t.regs.getS cl b))))

/-- FADD (R347). -/
def execFadd (cl : Cl) (d a b : Reg) (g : Guard) (s : State) : Result := .next (fpOp2 s cl d a b 2 g (fAdd fmtF32))

/-- FSUB (R347). -/
def execFsub (cl : Cl) (d a b : Reg) (g : Guard) (s : State) : Result := .next (fpOp2 s cl d a b 2 g (fSub fmtF32))

/-- FMUL (R347). -/
def execFmul (cl : Cl) (d a b : Reg) (g : Guard) (s : State) : Result := .next (fpOp2 s cl d a b 2 g (fMul fmtF32))

/-- FFMA: d + a × b (R353). -/
def execFfma (cl : Cl) (d a b : Reg) (g : Guard) (s : State) : Result := .next (fpFma s cl false d a b g)

/-- FFMS: d − a × b (R353). -/
def execFfms (cl : Cl) (d a b : Reg) (g : Guard) (s : State) : Result := .next (fpFma s cl true d a b g)

/-- FMIN (R354). -/
def execFmin (cl : Cl) (d a b : Reg) (g : Guard) (s : State) : Result :=
  .next (fpOp2 s cl d a b 2 g (fun _ => fMinMax fmtF32 false))

/-- FMAX (R354). -/
def execFmax (cl : Cl) (d a b : Reg) (g : Guard) (s : State) : Result :=
  .next (fpOp2 s cl d a b 2 g (fun _ => fMinMax fmtF32 true))

/-- FABS (R346). -/
def execFabs (cl : Cl) (d a : Reg) (g : Guard) (s : State) : Result :=
  .next (fpOp1 s cl d a 2 g (fun _ x => (fAbsBits fmtF32 x, fNone)))

/-- FNEG (R346). -/
def execFneg (cl : Cl) (d a : Reg) (g : Guard) (s : State) : Result :=
  .next (fpOp1 s cl d a 2 g (fun _ x => (fNegBits fmtF32 x, fNone)))

/-- FDIV (R351). -/
def execFdiv (cl : Cl) (d a b : Reg) (g : Guard) (s : State) : Result := .next (fpOp2 s cl d a b 14 g (fDiv fmtF32))

/-- FSQRT (R355). -/
def execFsqrt (cl : Cl) (d a : Reg) (g : Guard) (s : State) : Result := .next (fpOp1 s cl d a 14 g (fSqrt fmtF32))

/-- FRSQ (R355). -/
def execFrsq (cl : Cl) (d a : Reg) (g : Guard) (s : State) : Result := .next (fpOp1 s cl d a 4 g (fRsqrt fmtF32))

/-- FCLASS: one bit of R133's table (R348). -/
def execFclass (cl : Cl) (d a : Reg) (g : Guard) (s : State) : Result :=
  .next (intOp s (Cl.reg cl d) 2 g (fun t => BitVec.ofNat 64 (2 ^ fClass fmtF32 (f32Of (t.regs.getS cl a)))))

/-- FCVT.FI: signed I64 to F32 (R350). -/
def execFcvtFi (cl : Cl) (d a : Reg) (g : Guard) (s : State) : Result :=
  .next (scalarOp s (Cl.reg cl d) 2 g (fun t => f32Word (intToF fmtF32 t.rm (t.regs.getS cl a).toInt)))

/-- FCVT.FU: unsigned 64 to F32 (R350). -/
def execFcvtFu (cl : Cl) (d a : Reg) (g : Guard) (s : State) : Result :=
  .next (scalarOp s (Cl.reg cl d) 2 g (fun t => f32Word (intToF fmtF32 t.rm (t.regs.getS cl a).toNat)))

/-- F32 to I64 with the clamped results of R134. -/
def toI64 (rm x : Nat) : Word × BitVec 5 :=
  let r := fToInt fmtF32 rm x (-(2 ^ 63)) (2 ^ 63 - 1) (-(2 ^ 63)) (2 ^ 63 - 1) 0
  (BitVec.ofInt 64 r.1, r.2)

/-- FCVT.IF: F32 to I64 by THS.RM (R350). -/
def execFcvtIf (cl : Cl) (d a : Reg) (g : Guard) (s : State) : Result :=
  .next (scalarOp s (Cl.reg cl d) 2 g (fun t => toI64 t.rm (f32Of (t.regs.getS cl a))))

/-- FCVT.IFZ: F32 to I64 toward zero (R350). -/
def execFcvtIfz (cl : Cl) (d a : Reg) (g : Guard) (s : State) : Result :=
  .next (scalarOp s (Cl.reg cl d) 2 g (fun t => toI64 1 (f32Of (t.regs.getS cl a))))

/-- A comparison of F32 values with its NV (R132). -/
def fcmpHolds (c : FCmp) (x y : Nat) : Bool × BitVec 5 :=
  match c with
  | .eq => fEq fmtF32 x y
  | .lt => fLt fmtF32 x y
  | .le => fLe fmtF32 x y
  | .un => fUn fmtF32 x y

/-- FCMP.cc (R349). -/
def execFcmp (cc : FCmp) (cl : Cl) (pd : BitVec 3) (a b : Reg) (g : Guard) (s : State) : Result :=
  .next (predOp s pd 2 g (fun t => fcmpHolds cc (f32Of (t.regs.getS cl a)) (f32Of (t.regs.getS cl b))))

end Sys2Proof.Machine
end

