-- ==== Sys2Proof/Machine/VectorArith.lean ====
section
/-! DEFINITION. Meanings of the VA slot: VINT, VFP and VSCL (R106, R402 to R432). -/

namespace Sys2Proof.Machine

/-- A two-source integer lane operation of VA on signed lanes, taken modulo 2^w. -/
def vint2 (s : State) (et : Ety) (d a b : Reg) (lat : Nat) (g : Guard) (f : Nat → Int → Int → Int) : State :=
  let w := laneBits et
  laneOp2 s sylVA et d a b lat g (fun x y => wrapLane w (f w (signedLane w x) (signedLane w y)))

/-- VADD (R408). -/
def execVadd (et : Ety) (d a b : Reg) (g : Guard) (s : State) : Result :=
  .next (vint2 s et d a b 1 g (fun _ x y => x + y))

/-- VSUB (R408). -/
def execVsub (et : Ety) (d a b : Reg) (g : Guard) (s : State) : Result :=
  .next (vint2 s et d a b 1 g (fun _ x y => x - y))

/-- VMUL: the low w bits (R408). -/
def execVmul (et : Ety) (d a b : Reg) (g : Guard) (s : State) : Result :=
  .next (vint2 s et d a b 2 g (fun _ x y => x * y))

/-- VMULH: the high w bits of the signed product (R408). -/
def execVmulh (et : Ety) (d a b : Reg) (g : Guard) (s : State) : Result :=
  .next (vint2 s et d a b 2 g (fun w x y => x * y / 2 ^ w))

/-- VMAC: d + a × b (R408). -/
def execVmac (et : Ety) (d a b : Reg) (g : Guard) (s : State) : Result :=
  .next (
    let w := laneBits et
    vectorOp s sylVA [a, b] d w (laneCount et) 2 g (fun s t i =>
      ((laneOf w (vecOf s t d) i + laneOf w (vecOf s t a) i * laneOf w (vecOf s t b) i) % 2 ^ w, fNone)))

/-- VMIN: the lesser, signed (R408). -/
def execVmin (et : Ety) (d a b : Reg) (g : Guard) (s : State) : Result :=
  .next (vint2 s et d a b 1 g (fun _ x y => if x ≤ y then x else y))

/-- VMAX: the greater, signed (R408). -/
def execVmax (et : Ety) (d a b : Reg) (g : Guard) (s : State) : Result :=
  .next (vint2 s et d a b 1 g (fun _ x y => if x ≥ y then x else y))

/-- VABS; the most negative value stays unchanged (R408). -/
def execVabs (et : Ety) (d a : Reg) (g : Guard) (s : State) : Result :=
  .next (laneOp1 s sylVA et d a 1 g (fun _ x =>
    (wrapLane (laneBits et) ((signedLane (laneBits et) x).natAbs : Int), fNone)))

/-- VSHL: 0 for an amount of w or more (R432). -/
def execVshl (et : Ety) (d a b : Reg) (g : Guard) (s : State) : Result :=
  .next (laneOp2 s sylVA et d a b 1 g (fun x y => if y ≥ laneBits et then 0 else x * 2 ^ y % 2 ^ laneBits et))

/-- VSHR: arithmetic; copies of the sign for an amount of w or more (R432). -/
def execVshr (et : Ety) (d a b : Reg) (g : Guard) (s : State) : Result :=
  .next (laneOp2 s sylVA et d a b 1 g (fun x y =>
    wrapLane (laneBits et) (signedLane (laneBits et) x / 2 ^ (min y (laneBits et)))))

/-- Saturate to w signed bits (R135). -/
def satLane (w : Nat) (t : Int) : Int :=
  if t > 2 ^ (w - 1) - 1 then 2 ^ (w - 1) - 1 else if t < -(2 ^ (w - 1)) then -(2 ^ (w - 1)) else t

/-- The rounding shift of R135. Amounts beyond w either way act as w: the right shift gives 0 from w up, and a left shift
of w saturates every non-zero value. -/
def roundShift (w : Nat) (a s : Int) : Int :=
  if s > 0 then
    let n := min s.toNat (w + 1)
    satLane w ((a + 2 ^ (n - 1)) / 2 ^ n)
  else satLane w (a * 2 ^ (min (-s).toNat w))

/-- VRSHR (R135, R432). -/
def execVrshr (et : Ety) (d a b : Reg) (g : Guard) (s : State) : Result :=
  .next (vint2 s et d a b 2 g (fun w x y => roundShift w x y))

/-- VAND (R408). -/
def execVand (et : Ety) (d a b : Reg) (g : Guard) (s : State) : Result :=
  .next (laneOp2 s sylVA et d a b 1 g (fun x y => x &&& y))

/-- VOR (R408). -/
def execVor (et : Ety) (d a b : Reg) (g : Guard) (s : State) : Result :=
  .next (laneOp2 s sylVA et d a b 1 g (fun x y => x ||| y))

/-- VXOR (R408). -/
def execVxor (et : Ety) (d a b : Reg) (g : Guard) (s : State) : Result :=
  .next (laneOp2 s sylVA et d a b 1 g (fun x y => x ^^^ y))

/-- The dot product of four signed byte pairs (R416). -/
def dot4 (a b : Vec) (i : Nat) : Int :=
  (List.range 4).foldl (fun acc j =>
    acc + signedLane 8 (laneOf 8 a (4 * i + j)) * signedLane 8 (laneOf 8 b (4 * i + j))) 0

/-- VDOT4: each of 16 I32 lanes gains a dot product (R416). -/
def execVdot4 (d a b : Reg) (g : Guard) (s : State) : Result :=
  .next (vectorOp s sylVA [a, b] d 32 16 2 g (fun s t i =>
    (wrapLane 32 ((laneOf 32 (vecOf s t d) i : Int) + dot4 (vecOf s t a) (vecOf s t b) i), fNone)))

/-- VFADD (R418). -/
def execVfadd (et : Ety) (d a b : Reg) (g : Guard) (s : State) : Result := .next (floatOp2 s et d a b 2 g fAdd)

/-- VFSUB (R418). -/
def execVfsub (et : Ety) (d a b : Reg) (g : Guard) (s : State) : Result := .next (floatOp2 s et d a b 2 g fSub)

/-- VFMUL (R418). -/
def execVfmul (et : Ety) (d a b : Reg) (g : Guard) (s : State) : Result := .next (floatOp2 s et d a b 2 g fMul)

/-- VFFMA: d + a × b, rounded once (R419). -/
def execVffma (et : Ety) (d a b : Reg) (g : Guard) (s : State) : Result :=
  .next (
    let w := laneBits et
    vectorOp s sylVA [a, b] d w (laneCount et) 3 g (fun s t i =>
      fFma (fmtOf et) t.rm false (laneOf w (vecOf s t d) i) (laneOf w (vecOf s t a) i) (laneOf w (vecOf s t b) i)))

/-- VFMIN (R418). -/
def execVfmin (et : Ety) (d a b : Reg) (g : Guard) (s : State) : Result :=
  .next (floatOp2 s et d a b 2 g (fun f _ => fMinMax f false))

/-- VFMAX (R418). -/
def execVfmax (et : Ety) (d a b : Reg) (g : Guard) (s : State) : Result :=
  .next (floatOp2 s et d a b 2 g (fun f _ => fMinMax f true))

/-- VFABS (R418). -/
def execVfabs (et : Ety) (d a : Reg) (g : Guard) (s : State) : Result :=
  .next (laneOp1 s sylVA et d a 2 g (fun _ x => (fAbsBits (fmtOf et) x, fNone)))

/-- VFNEG (R418). -/
def execVfneg (et : Ety) (d a : Reg) (g : Guard) (s : State) : Result :=
  .next (laneOp1 s sylVA et d a 2 g (fun _ x => (fNegBits (fmtOf et) x, fNone)))

/-- VFRCP: 1 / a (R420). -/
def execVfrcp (et : Ety) (d a : Reg) (g : Guard) (s : State) : Result :=
  .next (laneOp1 s sylVA et d a 4 g (fun t x => fRcp (fmtOf et) t.rm x))

/-- VFRSQ: 1 / √a (R420). -/
def execVfrsq (et : Ety) (d a : Reg) (g : Guard) (s : State) : Result :=
  .next (laneOp1 s sylVA et d a 4 g (fun t x => fRsqrt (fmtOf et) t.rm x))

/-- A VSCL syllable: the low w bits of x b stand for every lane of the second operand (R409, R419). -/
def vscl (s : State) (et : Ety) (d a b : Reg) (lat : Nat) (g : Guard)
    (f : Thread → Nat → Nat → Nat → Nat × BitVec 5) : State :=
  let w := laneBits et
  vectorOp s sylVA [a] d w (laneCount et) lat g (fun s t i =>
    f t (laneOf w (vecOf s t d) i) (laneOf w (vecOf s t a) i) ((t.regs.getX b).toNat % 2 ^ w))

/-- VADDS (R409). -/
def execVadds (et : Ety) (d a b : Reg) (g : Guard) (s : State) : Result :=
  .next (vscl s et d a b 1 g (fun _ _ x y => ((x + y) % 2 ^ laneBits et, fNone)))

/-- VMULS (R409). -/
def execVmuls (et : Ety) (d a b : Reg) (g : Guard) (s : State) : Result :=
  .next (vscl s et d a b 2 g (fun _ _ x y => (x * y % 2 ^ laneBits et, fNone)))

/-- VFMULS (R419). -/
def execVfmuls (et : Ety) (d a b : Reg) (g : Guard) (s : State) : Result :=
  .next (vscl s et d a b 3 g (fun t _ x y => fMul (fmtOf et) t.rm x y))

/-- VFFMAS: d + a × s, rounded once (R419). -/
def execVffmas (et : Ety) (d a b : Reg) (g : Guard) (s : State) : Result :=
  .next (vscl s et d a b 3 g (fun t z x y => fFma (fmtOf et) t.rm false z x y))

end Sys2Proof.Machine
end

