-- ==== Sys2Proof/Machine/VectorMove.lean ====
section
/-! DEFINITION. Meanings of the VB slot: compares, moves, conversions, blocks and reductions (R107, R402 to R434). -/

namespace Sys2Proof.Machine

/-- An integer lane comparison (R413). -/
def vcmpInt (c : VCmp) (w x y : Nat) : Bool :=
  match c with
  | .eq => x = y
  | .ne => x ≠ y
  | .lt => signedLane w x < signedLane w y
  | .le => signedLane w x ≤ signedLane w y
  | .ltu => x < y
  | .leu => x ≤ y
  | .un => false

/-- A float lane comparison with its NV (R132, R413). -/
def vcmpFloat (c : VCmp) (f : Fmt) (x y : Nat) : Bool × BitVec 5 :=
  match c with
  | .eq => fEq f x y
  | .ne => (!(fEq f x y).1, (fEq f x y).2)
  | .lt => fLt f x y
  | .le => fLe f x y
  | .un => fUn f x y
  | .ltu => (false, fNone)
  | .leu => (false, fNone)

/-- A lane comparison of a type. -/
def vcmpLane (c : VCmp) (et : Ety) (x y : Nat) : Bool × BitVec 5 :=
  if Ety.isInt et then (vcmpInt c (laneBits et) x y, fNone) else vcmpFloat c (fmtOf et) x y

/-- VCMP.cc: enabled lanes write their mask bit; bits [63:n] are written zero (R413, R402). -/
def execVcmp (cc : VCmp) (et : Ety) (md : BitVec 3) (a b : Reg) (g : Guard) (s : State) : Result :=
  .next (withPorts s sylVB g [a, b] none (fun s t =>
    let w := laneBits et
    let n := laneCount et
    let l := (List.range n).map (fun i =>
      let r := vcmpLane cc et (laneOf w (vecOf s t a) i) (laneOf w (vecOf s t b) i)
      ((if r.1 then 1 else 0 : Nat), r.2))
    pushFlight s (.m md) (ofLanes 1 (l.map (fun e => e.1)))
      (laneMask t.regs g 1 n ||| (allBits <<< n)) 1 (laneFlags t.regs g l)))

/-- VSEL: lane of A where the mask bit is 1, else of B (R433). -/
def execVsel (et : Ety) (d : Reg) (mf : BitVec 3) (a b : Reg) (g : Guard) (s : State) : Result :=
  .next (
    let w := laneBits et
    vectorOp s sylVB [a, b] d w (laneCount et) 1 g (fun s t i =>
      (if (t.regs.getM mf).getLsbD i then laneOf w (vecOf s t a) i else laneOf w (vecOf s t b) i, fNone)))

/-- VPERM: lane (b.lane[j] mod n) of A (R427). -/
def execVperm (et : Ety) (d a b : Reg) (g : Guard) (s : State) : Result :=
  .next (
    let w := laneBits et
    let n := laneCount et
    vectorOp s sylVB [a, b] d w n 1 g (fun s t i =>
      (laneOf w (vecOf s t a) (laneOf w (vecOf s t b) i % n), fNone)))

/-- VSLIDE: lanes moved by a signed count, zeros shifted in (R434). -/
def execVslide (et : Ety) (d a b : Reg) (g : Guard) (s : State) : Result :=
  .next (
    let w := laneBits et
    let n := laneCount et
    vectorOp s sylVB [a] d w n 1 g (fun s t i =>
      let j : Int := (i : Int) - (t.regs.getX b).toInt
      (if 0 ≤ j && j < n then laneOf w (vecOf s t a) j.toNat else 0, fNone)))

/-- VBCAST: the low bits of x a in every lane (R412). -/
def execVbcast (et : Ety) (d a : Reg) (g : Guard) (s : State) : Result :=
  .next (vectorOp s sylVB [] d (laneBits et) (laneCount et) 1 g (fun _ t _ =>
    ((t.regs.getX a).toNat % 2 ^ laneBits et, fNone)))

/-- VEXT: one lane to x d, sign-extended for the integer types (R417). -/
def execVext (et : Ety) (d a b : Reg) (s : State) : Result :=
  .next (withPorts s sylVB Guard.always [a] none (fun s t =>
    let w := laneBits et
    let x := laneOf w (vecOf s t a) ((t.regs.getX b).toNat % laneCount et)
    let v : Word := if Ety.isInt et then BitVec.ofInt 64 (signedLane w x) else BitVec.ofNat 64 x
    pushFlight s (.x d) (v.setWidth 512) allBits 2 fNone))

/-- One element converted between types; SAT makes no difference towards a wider float type (R134). F16 to BF16 with SAT gives the
signed max of BF16 for an infinity, as R134 counts it as narrower (DESIGN CHOICE: R134 also says that SAT has no effect with a
destination that cannot overflow, and no F16 number overflows in BF16; log entry 59). -/
def convert (st dt : Ety) (sat : Bool) (rm x : Nat) : Nat × BitVec 5 :=
  let rm := match dt with | .e4m3 => 0 | .e5m2 => 0 | _ => rm
  let wd := laneBits dt
  if Ety.isInt st then
    let v := signedLane (laneBits st) x
    if Ety.isInt dt then (wrapLane wd (if sat then satLane wd v else v), fNone)
    else
      let r := intToF (fmtOf dt) rm v
      (if sat && r.2 &&& fOF ≠ 0 then (fmtOf dt).signed (v < 0) (fmtOf dt).maxCode else r.1, r.2)
  else if Ety.isInt dt then
    let lo : Int := -(2 ^ (wd - 1))
    let hi : Int := 2 ^ (wd - 1) - 1
    let r := if sat then fToInt (fmtOf st) rm x lo hi lo hi 0 else fToInt (fmtOf st) rm x lo hi lo lo lo
    (wrapLane wd r.1, r.2)
  else fToF (fmtOf st) (fmtOf dt) rm x (sat && !(laneBits st < laneBits dt))

/-- VCVT: the first min(lanes) elements; higher destination lanes zero (R414). -/
def execVcvt (st dt : Ety) (sat : Bool) (d a : Reg) (g : Guard) (s : State) : Result :=
  .next (vectorOp s sylVB [a] d (laneBits dt) (laneCount dt) 2 g (fun s t i =>
    if i < laneCount st then convert st dt sat t.rm (laneOf (laneBits st) (vecOf s t a) i) else (0, fNone)))

/-- The 32 elements of a block: 16 F32 lanes of A then of B, or 32 BF16 lanes of A (R138). -/
def blockOf (et : Ety) (a b : Vec) : List BElem :=
  if et = .f32 then
    (List.range 32).map (fun i => bElemOf fmtF32 (if i < 16 then laneOf 32 a i else laneOf 32 b (i - 16)))
  else (List.range 32).map (fun i => bElemOf fmtBF16 (laneOf 16 a i))

/-- A quantising syllable: the guard covers 64 byte lanes; NV and NX belong to the block (R138, R429). -/
def quantOp (s : State) (et : Ety) (d a b : Reg) (g : Guard) (f : List BElem → K4Block) : State :=
  withPorts s sylVB g (if et = .f32 then [a, b] else [a]) (some d) (fun s t =>
    let l := blockOf et (vecOf s t a) (vecOf s t b)
    let k := f l
    let any := (List.range 64).any (laneOn t.regs g)
    let nan := l.any (fun e => e = .nan)
    pushFlight s (vreg d) (ofLanes 8 (k4Bytes k)) (laneMask t.regs g 8 64) 2
      (flagIf (any && nan) fNV ||| flagIf (any && !k.exact') fNX))

/-- VQUANT under a named type (R429). -/
def execVquant (et : Ety) (kt : BitVec 2) (d a b : Reg) (g : Guard) (s : State) : Result :=
  .next (quantOp s et d a b g (k4Quantise kt.toNat))

/-- VQUANT.AUTO (R139, R429). -/
def execVquantAuto (et : Ety) (d a b : Reg) (g : Guard) (s : State) : Result :=
  .next (quantOp s et d a b g k4Auto)

/-- VDEQ: elements 0 up, or 16 up with .HI, decoded exactly (R140, R415). -/
def execVdeq (et : Ety) (hi : Bool) (d a : Reg) (g : Guard) (s : State) : Result :=
  .next (vectorOp s sylVB [a] d (laneBits et) (laneCount et) 2 g (fun s t i =>
    (k4Code (fmtOf et) (k4Element (vecOf s t a).toNat (if hi then i + 16 else i)), fNone)))

/-- One combination of VRED's tree (R144, R430). -/
def redPair (op : RedOp) (et : Ety) (rm x y : Nat) : Nat × BitVec 5 :=
  let w := laneBits et
  match op with
  | .sum => if Ety.isInt et then ((x + y) % 2 ^ w, fNone) else fAdd (fmtOf et) rm x y
  | .min =>
    if Ety.isInt et then (if signedLane w x ≤ signedLane w y then x else y, fNone) else fMinMax (fmtOf et) false x y
  | .max =>
    if Ety.isInt et then (if signedLane w x ≥ signedLane w y then x else y, fNone) else fMinMax (fmtOf et) true x y
  | .or => (x ||| y, fNone)

/-- One level of the tree: lane 2i with lane 2i + 1; an absent member passes the other (R144). -/
def redLevel (f : Nat → Nat → Nat × BitVec 5) (l : List (Option Nat)) : List (Option Nat) × BitVec 5 :=
  match l with
  | [] => ([], 0)
  | [a] => ([a], 0)
  | a :: b :: r =>
    let (t, fl) := redLevel f r
    match a, b with
    | some x, some y => (some (f x y).1 :: t, fl ||| (f x y).2)
    | some x, none => (some x :: t, fl)
    | none, y => (y :: t, fl)

/-- The tree's levels (R144). A signalling NaN in the only enabled lane meets no operation and raises no NV (DESIGN CHOICE: R131
raises it on any signalling NaN input, R144 only as the tree's operations do; log entry 59). -/
def redTree (fuel : Nat) (f : Nat → Nat → Nat × BitVec 5) (l : List (Option Nat)) : Option Nat × BitVec 5 :=
  match fuel with
  | 0 => (l.head?.join, 0)
  | fuel + 1 =>
    let (l', fl) := redLevel f l
    let (r, fl') := redTree fuel f l'
    (r, fl ||| fl')

/-- The identity of a reduction (R144). -/
def redIdentity (op : RedOp) (et : Ety) : Nat :=
  let w := laneBits et
  match op with
  | .sum => 0
  | .or => 0
  | .min => if Ety.isInt et then 2 ^ (w - 1) - 1 else (fmtOf et).infCode
  | .max => if Ety.isInt et then 2 ^ (w - 1) else (fmtOf et).signed true (fmtOf et).infCode

/-- The value of a reduction: a NaN is the canonical one, also where it is the only enabled lane (R126, R144). -/
def redValue (op : RedOp) (et : Ety) (x : Nat) : Nat :=
  if op ≠ .or && !Ety.isInt et && ((fmtOf et).decode x).isNan then (fmtOf et).nanCode else x

/-- VRED: the guard selects source lanes; lane 0 takes the result and every other lane zero (R430). -/
def execVred (op : RedOp) (et : Ety) (d a : Reg) (g : Guard) (s : State) : Result :=
  .next (withPorts s sylVB g [a] (some d) (fun s t =>
    let w := laneBits et
    let l := (List.range (laneCount et)).map (fun i => if laneOn t.regs g i then some (laneOf w (vecOf s t a) i) else none)
    let (r, fl) := redTree 6 (redPair op et t.rm) l
    pushFlight s (vreg d) (BitVec.ofNat 512 (redValue op et (r.getD (redIdentity op et)))) allBits 2 fl))

/-- The counter-based random word of a key and a lane (R301). -/
def rngWord (k x : Nat) : Nat :=
  let z := (k + x * 0xD1B54A32D192ED03) % 2 ^ 64
  let z := (z ^^^ (z / 2 ^ 31)) * 0xA0F27B5C3E916D47 % 2 ^ 64
  let z := (z ^^^ (z / 2 ^ 29)) * 0x8CB92BA72F3D8DD7 % 2 ^ 64
  (z ^^^ (z / 2 ^ 32)) % 2 ^ 32

/-- VRNG (R301, R431). -/
def execVrng (d a b : Reg) (g : Guard) (s : State) : Result :=
  .next (vectorOp s sylVB [a] d 32 16 2 g (fun s t i =>
    (rngWord (t.regs.getX b).toNat (laneOf 32 (vecOf s t a) i), fNone)))

/-- VMOVI (R426). -/
def execVmovi (d : Reg) (imm : BitVec 17) (g : Guard) (s : State) : Result :=
  .next (vectorOp s sylVB [] d 32 16 1 g (fun _ _ _ => ((imm.signExtend 32).toNat, fNone)))

/-- VPOPC: the 1 bits of each lane (R428). -/
def execVpopc (et : Ety) (d a : Reg) (g : Guard) (s : State) : Result :=
  .next (laneOp1 s sylVB et d a 1 g (fun _ x => (countOnes (laneBits et) x, fNone)))

/-- MCNT: the 1 bits of a mask (R367). -/
def execMcnt (d : Reg) (a : BitVec 3) (s : State) : Result :=
  .next (match s.cth with
    | none => s
    | some t =>
      pushFlight s (.x d) (BitVec.ofNat 512 (countOnes 64 (t.regs.getM a).toNat)) allBits 1 fNone)

end Sys2Proof.Machine
end

