-- ==== Sys2Proof/Machine/Syllables.lean ====
section
/-! DEFINITION. The syllables of a bundle by their meanings, for the issue of a bundle; `exec` makes the same calls. -/

namespace Sys2Proof.Machine

/-- The effect of one syllable issued by the thread at `s.cur`; the device's steps are none. -/
def runSyllable (i : Instr) (s : State) : Result :=
  match i with
  | .nop pos => execNop pos s
  | .add cl d a b g => execAdd cl d a b g s
  | .addi cl d a imm g => execAddi cl d a imm g s
  | .sub cl d a b g => execSub cl d a b g s
  | .and cl d a b g => execAnd cl d a b g s
  | .andn cl d a b g => execAndn cl d a b g s
  | .andi cl d a imm g => execAndi cl d a imm g s
  | .or cl d a b g => execOr cl d a b g s
  | .ori cl d a imm g => execOri cl d a imm g s
  | .xor cl d a b g => execXor cl d a b g s
  | .xori cl d a imm g => execXori cl d a imm g s
  | .sll cl d a b g => execSll cl d a b g s
  | .srl cl d a b g => execSrl cl d a b g s
  | .sra cl d a b g => execSra cl d a b g s
  | .slli cl d a imm g => execSlli cl d a imm g s
  | .srli cl d a imm g => execSrli cl d a imm g s
  | .srai cl d a imm g => execSrai cl d a imm g s
  | .mul cl d a b g => execMul cl d a b g s
  | .mulh cl d a b g => execMulh cl d a b g s
  | .mulhu cl d a b g => execMulhu cl d a b g s
  | .muli cl d a imm g => execMuli cl d a imm g s
  | .min cl d a b g => execMin cl d a b g s
  | .max cl d a b g => execMax cl d a b g s
  | .minu cl d a b g => execMinu cl d a b g s
  | .maxu cl d a b g => execMaxu cl d a b g s
  | .popc cl d a g => execPopc cl d a g s
  | .clz cl d a g => execClz cl d a g s
  | .ctz cl d a g => execCtz cl d a g s
  | .brev cl d a g => execBrev cl d a g s
  | .sextb cl d a g => execSextb cl d a g s
  | .sexth cl d a g => execSexth cl d a g s
  | .sextw cl d a g => execSextw cl d a g s
  | .zextw cl d a g => execZextw cl d a g s
  | .div cl d a b g => execDiv cl d a b g s
  | .divu cl d a b g => execDivu cl d a b g s
  | .rem cl d a b g => execRem cl d a b g s
  | .remu cl d a b g => execRemu cl d a b g s
  | .cmp cc cl pd a b g => execCmp cc cl pd a b g s
  | .cmpiEq cl pd a imm g => execCmpiEq cl pd a imm g s
  | .cmpiLt cl pd a imm g => execCmpiLt cl pd a imm g s
  | .cmpiLtu cl pd a imm g => execCmpiLtu cl pd a imm g s
  | .fadd cl d a b g => execFadd cl d a b g s
  | .fsub cl d a b g => execFsub cl d a b g s
  | .fmul cl d a b g => execFmul cl d a b g s
  | .ffma cl d a b g => execFfma cl d a b g s
  | .ffms cl d a b g => execFfms cl d a b g s
  | .fmin cl d a b g => execFmin cl d a b g s
  | .fmax cl d a b g => execFmax cl d a b g s
  | .fabs cl d a g => execFabs cl d a g s
  | .fneg cl d a g => execFneg cl d a g s
  | .fdiv cl d a b g => execFdiv cl d a b g s
  | .fsqrt cl d a g => execFsqrt cl d a g s
  | .frsq cl d a g => execFrsq cl d a g s
  | .fclass cl d a g => execFclass cl d a g s
  | .fcvtFi cl d a g => execFcvtFi cl d a g s
  | .fcvtFu cl d a g => execFcvtFu cl d a g s
  | .fcvtIf cl d a g => execFcvtIf cl d a g s
  | .fcvtIfz cl d a g => execFcvtIfz cl d a g s
  | .fcmp cc cl pd a b g => execFcmp cc cl pd a b g s
  | .xmov cl d a g => execXmov cl d a g s
  | .sel cl d pf a b g => execSel cl d pf a b g s
  | .movi cl d imm g => execMovi cl d imm g s
  | .shori cl d imm g => execShori cl d imm g s
  | .vadd et d a b g => execVadd et d a b g s
  | .vsub et d a b g => execVsub et d a b g s
  | .vmul et d a b g => execVmul et d a b g s
  | .vmulh et d a b g => execVmulh et d a b g s
  | .vmac et d a b g => execVmac et d a b g s
  | .vmin et d a b g => execVmin et d a b g s
  | .vmax et d a b g => execVmax et d a b g s
  | .vabs et d a g => execVabs et d a g s
  | .vshl et d a b g => execVshl et d a b g s
  | .vshr et d a b g => execVshr et d a b g s
  | .vrshr et d a b g => execVrshr et d a b g s
  | .vand et d a b g => execVand et d a b g s
  | .vor et d a b g => execVor et d a b g s
  | .vxor et d a b g => execVxor et d a b g s
  | .vdot4 d a b g => execVdot4 d a b g s
  | .vfadd et d a b g => execVfadd et d a b g s
  | .vfsub et d a b g => execVfsub et d a b g s
  | .vfmul et d a b g => execVfmul et d a b g s
  | .vffma et d a b g => execVffma et d a b g s
  | .vfmin et d a b g => execVfmin et d a b g s
  | .vfmax et d a b g => execVfmax et d a b g s
  | .vfabs et d a g => execVfabs et d a g s
  | .vfneg et d a g => execVfneg et d a g s
  | .vfrcp et d a g => execVfrcp et d a g s
  | .vfrsq et d a g => execVfrsq et d a g s
  | .vadds et d a b g => execVadds et d a b g s
  | .vmuls et d a b g => execVmuls et d a b g s
  | .vfmuls et d a b g => execVfmuls et d a b g s
  | .vffmas et d a b g => execVffmas et d a b g s
  | .vcmp cc et md a b g => execVcmp cc et md a b g s
  | .vsel et d mf a b g => execVsel et d mf a b g s
  | .vperm et d a b g => execVperm et d a b g s
  | .vslide et d a b g => execVslide et d a b g s
  | .vbcast et d a g => execVbcast et d a g s
  | .vext et d a b => execVext et d a b s
  | .vcvt st dt sat d a g => execVcvt st dt sat d a g s
  | .vquant et kt d a b g => execVquant et kt d a b g s
  | .vquantAuto et d a b g => execVquantAuto et d a b g s
  | .vdeq et hi d a g => execVdeq et hi d a g s
  | .vred op et d a g => execVred op et d a g s
  | .vrng d a b g => execVrng d a b g s
  | .vmovi d imm g => execVmovi d imm g s
  | .vpopc et d a g => execVpopc et d a g s
  | .mcnt d a => execMcnt d a s
  | .ldb cl d a sid off g => execLdb cl d a sid off g s
  | .ldbu cl d a sid off g => execLdbu cl d a sid off g s
  | .ldh cl d a sid off g => execLdh cl d a sid off g s
  | .ldhu cl d a sid off g => execLdhu cl d a sid off g s
  | .ldw cl d a sid off g => execLdw cl d a sid off g s
  | .ldwu cl d a sid off g => execLdwu cl d a sid off g s
  | .ldd cl d a sid off g => execLdd cl d a sid off g s
  | .stb cl d a sid off g => execStb cl d a sid off g s
  | .sth cl d a sid off g => execSth cl d a sid off g s
  | .stw cl d a sid off g => execStw cl d a sid off g s
  | .std cl d a sid off g => execStd cl d a sid off g s
  | .vld d a sid off g => execVld d a sid off g s
  | .vst d a sid off g => execVst d a sid off g s
  | .vlds d a sid st g => execVlds d a sid st g s
  | .vsts d a sid st g => execVsts d a sid st g s
  | .vgath d a sid i g => execVgath d a sid i g s
  | .vscat d a sid i g => execVscat d a sid i g s
  | .ldg wd cl d a sid off g => execLdg wd cl d a sid off g s
  | .stg wd cl d a sid off g => execStg wd cl d a sid off g s
  | .vldg d a sid off g => execVldg d a sid off g s
  | .vstg d a sid off g => execVstg d a sid off g s
  | .ldacq cl d a sid off g => execLdacq cl d a sid off g s
  | .strel cl d a sid off g => execStrel cl d a sid off g s
  | .atom op acq rel wide cl d a sid g => execAtom op acq rel wide cl d a sid g s
  | .vatom op d a sid g => execVatom op d a sid g s
  | .fenceJoin mask g => execFenceJoin mask g s
  | .fenceLoop mask g => execFenceLoop mask g s
  | .fenceFull g => execFenceFull g s
  | .tld d a sid g => execTld d a sid g s
  | .tst d a sid g => execTst d a sid g s
  | .br off g => execBr off g s
  | .call off g => execCall off g s
  | .ret a g => execRet a g s
  | .brx a g => execBrx a g s
  | .wait imm g => execWait imm g s
  | .waitt pd a g => execWaitt pd a g s
  | .waita a b g => execWaita a b g s
  | .waitb a b g => execWaitb a b g s
  | .waitmb mb a g => execWaitmb mb a g s
  | .waitk mask g => execWaitk mask g s
  | .arrive a g => execArrive a g s
  | .plog op d a b g => execPlog op d a b g s
  | .mlog op d a b g => execMlog op d a b g s
  | .rdc d creg g => execRdc d creg g s
  | .wrc creg a g => execWrc creg a g s
  | .trap code g => execTrap code g s
  | .eret g => execEret g s
  | .exit g => execExit g s
  | .mark a tag g => execMark a tag g s
  | .time d g => execTime d g s
  | .seqadd a b g => execSeqadd a b g s
  | .seqwait pd a b g => execSeqwait pd a b g s
  | .gbar g => execGbar g s
  | .mxldb mask a k => execMxldb mask a k s
  | .mxrun set a b k => execMxrun set a b k s
  | .mxrd d a b k => execMxrd d a b k s
  | .mxflg d a k => execMxflg d a k s
  | .mxclr set k => execMxclr set k s
  | .cpy a k => execCpy a k s
  | .send a b k => execSend a b k s
  | .snld a k => execSnld a k s
  | .spawn a k => execSpawn a k s
  | .wmset ch a b k => execWmset ch a b k s
  | _ => .next s

end Sys2Proof.Machine
end

