-- ==== Sys2Proof/Machine/Issue.lean ====
section
/-! DEFINITION. A turn of a slot: results land, waits are evaluated, causes are taken, and a bundle is fetched, decoded,
checked and issued (R47 to R59, R94 to R101, R177 to R179, R251 to R254, R298). -/

namespace Sys2Proof.Machine

/-- The state of a meaning's answer. -/
def stateOf (r : Result) (s : State) : State := match r with | .next t => t | _ => s

/-! ### Fetch (R177, R178, R188, R254) -/

/-- What a fetch at the PC gives. -/
inductive Fetch
  | trap (cause : BitVec 16) (val : Word)
  | walk
  | fault
  | miss (key : Nat)
  | bytes (l : List Byte)
  deriving DecidableEq, Repr

/-- The line of the bundle buffer that holds a key. -/
def bufferedLine (c : Core) (key : Nat) : Option Line := c.cache.bb.find? (fun l => l.key = key / 128 * 128)

/-- The code that a thread fetches from the scratchpad: what its last turn stored there is seen or not, and what it stored before is
seen (R180; DESIGN CHOICE: the spec leaves the first turn after a store open; log entry 62). -/
def codeBytes (s : State) (n : Nat) (t : Thread) (off : Nat) : List Byte :=
  match t.pipe.oldCode with
  | some l => if Config.seesStore t.tid s.sched.clock then Memory.readBytes s.mem (keyL n off) 32 else l
  | none => Memory.readBytes s.mem (keyL n off) 32

/-- The fetch of a thread on core n (R177, R179, R188). -/
def fetchOf (s : State) (n : Nat) (t : Thread) : Fetch :=
  let pc := t.ctl.pc
  match classOf pc with
  | .l =>
    if pc.toNat + 32 ≤ 0x78000 || t.mode = 2 then .bytes (codeBytes s n t pc.toNat) else .trap cPRIV pc
  | .m =>
    if t.inDomain then .trap cTIMING 0
    else
      match lookupXlate s n (pasidOf s t.task.rid) pc.toNat with
      | none => .walk
      | some e =>
        let key := xlateKey e.t pc.toNat
        if !(e.t.r || e.t.w || e.t.x) || reservedKey key then .fault
        else if !e.t.x then .trap cEXEC pc
        else
          match bufferedLine (s.core n) key with
          | some l => .bytes ((l.data.drop (key % 128)).take 32)
          | none => .miss key
  | _ => .trap cPRIV pc

/-- Fill a line of the bundle buffer: 64 sets of four ways, the oldest of the set leaving (R178; log entry 12). -/
def fillBuffer (bb : List Line) (l : Line) : List Line :=
  let rest := bb.filter (fun x => x.key ≠ l.key)
  match rest.filter (fun x => x.key / 128 % 64 = l.key / 128 % 64) with
  | a :: _ :: _ :: _ :: _ => rest.filter (fun x => x.key ≠ a.key) ++ [l]
  | _ => rest ++ [l]

/-- BUNDLE_LINE_FILL: the line at a byte key arrives from the Storeroom, whose reply adds to its slice's accumulator (R178,
R190). -/
def execBundleLineFill (core line : Nat) (s : State) : Result :=
  .next (let key := line / 128 * 128
    let s := addLatency (noteRead s (.core core) 0 none key 128) core (latOf key)
    s.modCache core (fun c => { c with bb := fillBuffer c.bb ⟨key, Memory.readBytes s.mem key 128⟩ }))

/-! ### Decode (R95 to R101) -/

/-- A decoded bundle: header fields, literal, and syllables by number with their words. -/
structure Bundle where
  hwait : Nat
  strict : Bool
  mark : Option (BitVec 16)
  lit : Option (BitVec 32)
  syls : List (Nat × Instr × Word)
  deriving DecidableEq, Repr

/-- The 32-bit word at a byte offset of a bundle. -/
def wordAt (b : List Byte) (o : Nat) : Nat := leValue ((b.drop o).take 4)

/-- The positions of a bundle in offset order, by syllable number (R88, R94). -/
def positions (lit : Bool) : List (Nat × Pos) :=
  [(1, .x), (2, .y), (3, .va)] ++ (if lit then [] else [(4, .vb)]) ++ [(5, .l), (6, .c), (7, .e)]

/-- Is a syllable an immediate shift with IMM12 = 0x800 that has no literal in 0 to 63 (R100, R105)? -/
def shiftBad (lit : Option (BitVec 32)) (i : Instr) : Bool :=
  let bad (imm : BitVec 12) : Bool := imm = 0x800 && (match lit with | some v => 64 ≤ v.toNat | none => true)
  match i with
  | .slli _ _ _ imm _ => bad imm
  | .srli _ _ _ imm _ => bad imm
  | .srai _ _ _ imm _ => bad imm
  | _ => false

/-- Decode the syllables in offset order; the first that has no meaning is ILLEGAL (R97, R100). -/
def decodeSyls (b : List Byte) (lit : Option (BitVec 32)) (l : List (Nat × Pos)) : Except (Nat × Word) (List (Nat × Instr × Word)) :=
  match l with
  | [] => .ok []
  | (i, p) :: r =>
    let w := wordAt b (4 * i)
    match decode p w with
    | .error _ => .error (i, BitVec.ofNat 64 w)
    | .ok ins =>
      if shiftBad lit ins then .error (i, BitVec.ofNat 64 w)
      else
        match decodeSyls b lit r with
        | .ok rest => .ok ((i, ins, BitVec.ofNat 64 w) :: rest)
        | .error e => .error e

/-- A register that a syllable writes and one before it does too (R96). -/
def conflictOf (before : List (Nat × Instr × Word)) (i : Instr) : Option Dest :=
  before.findSome? (fun e => (writesOf i).find? (fun d => Dest.counts d && (writesOf e.2.1).contains d))

/-- The first write conflict of a bundle, by its later syllable (R96). -/
def findConflict (before l : List (Nat × Instr × Word)) : Option (Nat × Dest) :=
  match l with
  | [] => none
  | e :: r =>
    match conflictOf before e.2.1 with
    | some d => some (e.1, d)
    | none => findConflict (before ++ [e]) r

/-- A bundle from its 32 bytes; ILLEGAL with its syllable and value otherwise (R96 to R98, R100). -/
def decodeBundle (b : List Byte) : Except (Nat × Word) Bundle :=
  let h := wordAt b 0
  let mark : Bool := h / 2 ^ 26 % 2 = 1
  let lit : Option (BitVec 32) := if h / 2 ^ 25 % 2 = 1 then some (BitVec.ofNat 32 (wordAt b 16)) else none
  if h / 2 ^ 16 % 2 ^ 9 ≠ 0 || (!mark && h % 2 ^ 16 ≠ 0) then .error (0, BitVec.ofNat 64 h)
  else
    match decodeSyls b lit (positions lit.isSome) with
    | .error e => .error e
    | .ok l =>
      match findConflict [] l with
      | some (i, d) => .error (i, BitVec.ofNat 64 (2 ^ 63 + Dest.code d))
      | none =>
        .ok { hwait := h / 2 ^ 28, strict := h / 2 ^ 27 % 2 = 1, mark := if mark then some (BitVec.ofNat 16 h) else none
              lit := lit, syls := l }

/-! ### Checks at decode (R59, R97, R253) -/

/-- A privileged syllable in this mode (R86, R258). -/
def privileged (t : Thread) (i : Instr) : Bool :=
  match i with
  | .eret _ => t.mode = 0
  | .rdc _ c _ => !ctlReadable t.mode c.toNat
  | .wrc c _ _ => !ctlWritable t.mode c.toNat
  | _ => false

/-- The guard of a syllable as a register: a predicate, or a lane mask in VA and VB (R79, R101). -/
def guardReg (i : Instr) : List Dest :=
  match guardOf i, posOf i with
  | some g, some .va => [.m g.g]
  | some g, some .vb => [.m g.g]
  | some g, _ => [.p g.g]
  | none, _ => []

/-- Does a syllable's guard let it act? A lane mask does, but for the guard that never holds (R79, R101). -/
def guardOn (t : Thread) (i : Instr) : Bool :=
  match guardOf i, posOf i with
  | some g, some .va => !Guard.never g
  | some g, some .vb => !Guard.never g
  | some g, _ => guardHolds t.regs g
  | none, _ => true

/-- Is a fixed-latency result to a register in flight (R59)? -/
def inFlight (t : Thread) (d : Dest) : Bool :=
  Dest.counts d && (match d with | .port _ => false | _ => t.pipe.flights.any (fun f => f.dest = d))

/-- The bank passes that a syllable would make. -/
def passesOf (s : State) (i : Instr) : Nat :=
  match (stateOf (runSyllable i s) s).cth with | some t => t.pipe.stallLeft + 1 | none => 1

/-- The STRICT violations of a syllable, as TRAPV names them (R59). -/
def strictFaults (s : State) (t : Thread) (e : Nat × Instr × Word) : List (Nat × Word) :=
  let regs := (guardReg e.2.1 ++ readsOf e.2.1 ++ writesOf e.2.1).filter (inFlight t)
  regs.map (fun d => (e.1, BitVec.ofNat 64 (2 ^ 62 + Dest.code d))) ++
    (if e.1 = sylL && 1 < passesOf s e.2.1 then [(e.1, BitVec.ofNat 64 (2 ^ 63 + passesOf s e.2.1))] else [])

/-- The class of a scalar load's address. -/
def loadClass (s : State) (t : Thread) (i : Instr) : AClass :=
  match i with
  | .ldb _ _ a _ off _ | .ldbu _ _ a _ off _ => classOf (eaOf s t a off 1)
  | .ldh _ _ a _ off _ | .ldhu _ _ a _ off _ => classOf (eaOf s t a off 2)
  | .ldw _ _ a _ off _ | .ldwu _ _ a _ off _ => classOf (eaOf s t a off 4)
  | .ldd _ _ a _ off _ | .ldacq _ _ a _ off _ => classOf (eaOf s t a off 8)
  | _ => .none

/-- The fixed-latency results that a syllable adds at its issue (R253). -/
def resultsOf (s : State) (t : Thread) (i : Instr) : Nat :=
  if !guardOn t i then 0
  else
    match i with
    | .waitt .. | .seqwait .. | .atom .. | .ldg .. | .vldg .. | .mxrd .. | .mxflg .. => 0
    | .ldb .. | .ldbu .. | .ldh .. | .ldhu .. | .ldw .. | .ldwu .. | .ldd .. | .ldacq .. =>
      if loadClass s t i = .l then 1 else 0
    | .tld .. =>
      match (stateOf (runSyllable i s) s).cth with | some u => u.pipe.flights.length - t.pipe.flights.length | none => 0
    | _ => (writesOf i).length

/-- The results in flight after a bundle's issue. -/
def flightsAfter (s : State) (t : Thread) (b : Bundle) : Nat :=
  t.pipe.flights.length + sumList (b.syls.map (fun e => resultsOf s t e.2.1))

/-! ### Checks at issue (R70, R83, R251, R298) -/

/-- Does a syllable read a register whose pending bit is set, its guard among them? -/
def pendingSource (t : Thread) (i : Instr) : Bool := (guardReg i ++ readsOf i).any t.isPending

/-- Does a syllable read or write a register whose pending bit is set (R83)? Outside domain time it holds its bundle whatever its guard
says (DESIGN CHOICE: R83 says only "reads the register, or writes it"; log entry 60). -/
def interlocked (t : Thread) (i : Instr) : Bool := pendingSource t i || (writesOf i).any t.isPending

/-- A pop of QNI that R298 forbids. -/
def forbiddenPop (t : Thread) (i : Instr) : Bool :=
  t.det && !t.timed && guardOn t i && (readsOf i).contains (.port 24)

/-- Did a syllable trap ILLEGAL? -/
def trappedIllegal (r : State) : Bool :=
  r.cur.issue = .trapped && (match r.cth with | some t => t.ctl.trapc.setWidth 16 = cILLEGAL | none => false)

/-- The source registers from whose values a syllable's ILLEGAL is found (R251 group 3). -/
def checkedSources (t : Thread) (i : Instr) : List Dest :=
  match i with
  | .send _ b _ => [b4reg b]
  | .mxrun _ a _ _ => [.x a]
  | .wmset _ a b _ => if (wmsetIll (t.regs.getX a) (t.regs.getX a)).isSome then [.x a] else [.x a, b4reg b]
  | i => readsOf i

/-- One syllable tried from the state before the bundle: its trap or hold, if any, is in `cur.issue`. ILLEGAL from operand values
comes before TIMING of an interlock, where those operands are there (R251); a false guard raises no TIMING (R79, R356). -/
def trySyllable (s : State) (t : Thread) (e : Nat × Instr × Word) : State :=
  if forbiddenPop t e.2.1 then trapCur s cILLEGAL e.1 e.2.2
  else
    let r := stateOf (runSyllable e.2.1 s) s
    if t.inDomain && guardOn t e.2.1 && interlocked t e.2.1 && !(trappedIllegal r && !(checkedSources t e.2.1).any t.isPending) then
      trapCur s cTIMING e.1 0
    else r

/-- The first syllable that traps or holds, with the state it leaves (R251). -/
def firstStop (s : State) (t : Thread) (l : List (Nat × Instr × Word)) : Option State :=
  l.findSome? (fun e =>
    let r := trySyllable s t e
    if r.cur.issue = .none then none else some r)

/-- Every syllable in turn: the result, or the syllable that what another of the bundle did stops, with the state it leaves. -/
def applyAll (s : State) (l : List (Nat × Instr × Word)) : Except (Nat × State) State :=
  match l with
  | [] => .ok s
  | e :: r =>
    let s := stateOf (runSyllable e.2.1 s) s
    if s.cur.issue = .none then applyAll s r else .error (e.1, s)

/-- Does a syllable only read a control register? -/
def readsCtl (i : Instr) : Bool := match i with | .rdc .. => true | _ => false

/-- The syllables as they take effect after RDC: C last, since it may end the thread. A WAITK therefore waits for the token that an E
instruction of its own bundle produces (DESIGN CHOICE: R82, R95 and R439 do not say which production it sees; log entry 4). -/
def effectOrder (l : List (Nat × Instr × Word)) : List (Nat × Instr × Word) :=
  l.filter (fun e => e.1 ≠ sylC) ++ l.filter (fun e => e.1 = sylC && !readsCtl e.2.1)

/-! ### Issue (R47, R57, R97, R99, R251) -/

/-- The bundle is held; a cause reported meanwhile is taken in its place (R253). -/
def heldBundle (s : State) (n k : Nat) : State := stateOf (execTrapTaken n k s) s

/-- The marks of an issuing bundle: the task's start, the header's record, and its WAIT count (R57, R93, R99). -/
def beginBundle (s : State) (n k : Nat) (b : Bundle) : State :=
  let s := stateOf (execTaskStart n k s) s
  let s := match b.mark, s.thread n k with
    | some v, some t => recordCore s n 0x14 k (s.tagOf t.task.rid) (v.setWidth 82) none (some t.tid)
    | _, _ => s
  s.modThread n k (fun t => { t with pipe := { t.pipe with waitLeft := b.hwait } })

/-- A taken branch (`branches` of the thread were taken before the bundle) whose target bundle is not at hand delivers it no earlier
than 32 clocks after the branch (R178). -/
def branchDelay (s : State) (n k branches : Nat) : State :=
  match s.thread n k with
  | none => s
  | some t =>
    if t.life.branches = branches then s
    else
      match fetchOf s n t with
      | .bytes _ => s
      | .trap _ _ => s
      | _ => s.setThread n k (some { t with pipe := { t.pipe with fetchAt := max t.pipe.fetchAt (s.coreClock n + 32) } })

/-- Every syllable of a bundle takes effect: RDC first, since it reads what neither the bundle's marks nor its other syllables have
written (R13, R95, R382; log entry 4). -/
def applyBundle (s : State) (n k : Nat) (b : Bundle) : Except (Nat × State) State :=
  match applyAll s (b.syls.filter (fun e => readsCtl e.2.1)) with
  | .ok r => applyAll (beginBundle r n k b) (effectOrder b.syls)
  | .error e => .error e

/-- The PC of a thread moves on after its bundle. -/
def moveOn (s : State) (n k : Nat) (t : Thread) : State :=
  branchDelay (s.modThread n k (fun u => if u.tid = t.tid then { u with ctl := { u.ctl with pc := s.cur.next } } else u)) n k
    t.life.branches

/-- Is TIMING the cause of the trap in which a bundle ended? -/
def trappedTiming (r : State) : Bool := match r.cth with | some t => t.ctl.trapc.setWidth 16 = cTIMING | none => false

/-- The bundle of a thread issues and the PC moves on. A resource that another syllable of it took holds it, or traps TIMING in domain
time (R70); an ERET whose table or WSTATE a store of its own bundle broke ends its fault domain as ILLEGAL (R258, R343). -/
def commitBundle (s : State) (n k : Nat) (t : Thread) (b : Bundle) : State :=
  match applyBundle s n k b with
  | .ok r => moveOn r n k t
  | .error (i, r) =>
    if r.cur.issue ≠ .trapped then heldBundle s n k
    else if trappedTiming r then trapCur s cTIMING i 0
    else r

/-- TRAPC.SYL of a trap that is no syllable's. -/
def bundleSyl (cause : BitVec 16) : Nat := Config.reportSyl cause % 8

/-- What keeps a decoded bundle from issuing: a trap, a hold, or a reported cause taken in its place; none where it issues (R59,
R97, R251, R253). -/
def bundleStop (s : State) (n k : Nat) (t : Thread) (b : Bundle) : Option State :=
  let faults := if t.ctl.ths.getLsbD 4 || b.strict then (b.syls.map (strictFaults s t)).flatten else []
  match b.syls.find? (fun e => privileged t e.2.1) with
  | some e => some (trapCur s cPRIV e.1 e.2.2)
  | none =>
    match faults[Config.pick s.sched.fresh % faults.length]? with
    | some (i, v) => some (trapCur s cTIMING i v)
    | none =>
      let c := flightsAfter s t b
      if Config.inFlight < c then some (trapCur s cTIMING (bundleSyl cTIMING) (BitVec.ofNat 64 (3 * 2 ^ 62 + c)))
      else if !t.inDomain && b.syls.any (fun e => interlocked t e.2.1) then some (heldBundle s n k)
      else
        match firstStop s t b.syls with
        | some r => some (if r.cur.issue = .trapped then r else heldBundle r n k)
        | none => causeNow s n k t

/-- The issue context of a slot's bundle (log entry 4). -/
def atCursor (s : State) (n k : Nat) (next : Word) : State :=
  { s with cur := { Cursor.idle with core := n, slot := k, next := next, first := s.sched.nextId } }

/-- The issue context of a decoded bundle. -/
def atBundle (s : State) (b : Bundle) : State :=
  { s with cur := { s.cur with lit := b.lit, hwait := b.hwait, strict := b.strict } }

/-- Is the region of a thread being evicted? -/
def evictedFrom (s : State) (t : Thread) : Bool :=
  match s.region t.task.rid with | some r => r.phase = .evicting | none => false

/-- Does a thread at an issue opportunity leave its slot for its region's eviction (R263)? -/
def leaving (s : State) (t : Thread) : Bool := !t.timed && t.mode = 0 && evictedFrom s t

/-- A thread leaves its slot for an eviction: its context is to be saved. -/
def leave (t : Thread) : Thread := { t with life := { t.life with saving := some 0, resuming := false } }

/-- The first bundle that the thread of a slot would issue in this clock, with its issue context, if nothing stops it. -/
def readyBundle (s : State) (n k : Nat) : Option (Thread × State × Bundle) :=
  match s.thread n k with
  | none => none
  | some t =>
    if t.life.started || s.frozenFor t || !mayReport s n t || leaving s t || !s.pulsed n || s.coreClock n % 8 ≠ k then none
    else
      match fetchOf s n t with
      | .bytes l =>
        match decodeBundle l with
        | .ok b =>
          let s := atBundle (atCursor s n k (t.ctl.pc + 32)) b
          if (bundleStop s n k t b).isNone then some (t, s, b) else none
        | .error _ => none
      | _ => none

/-- Can cores issue their slots' first bundles one after another in this clock? -/
def issueAll (s : State) (k : Nat) (l : List Nat) : Bool :=
  match l with
  | [] => true
  | m :: r =>
    match readyBundle s m k with
    | none => false
    | some (t, s, b) =>
      match applyBundle s m k b with
      | .ok _ => issueAll { commitBundle s m k t b with cur := Cursor.idle } k r
      | .error _ => false

/-- Is a thread a member of a gang whose first bundles are to issue in one clock (R40)? -/
def freshMember (t : Thread) : Bool := 1 < t.task.size && !t.life.started && t.mode = 0

/-- The members of a gang that have not issued yet, the one on core n first. -/
def freshCores (s : State) (n k : Nat) (t : Thread) : List Nat :=
  n :: (gangCores t.task.base t.task.size).filter (fun m => m ≠ n && !(s.thread m k).any (fun u => u.life.started))

/-- May a member of a fresh gang issue its first bundle: every other does so in this clock too, its turn being still to come (R40)? -/
def gangReady (s : State) (n k : Nat) (t : Thread) : Bool :=
  !freshMember t ||
    (((freshCores s n k t).drop 1).all (fun m => s.sched.todoCores.contains m) && issueAll s k (freshCores s n k t))

/-- The other members of a fresh gang have the next turns of the clock, so that nothing takes what they need (R40). -/
def summonMates (s : State) (n k : Nat) (t : Thread) : State :=
  if freshMember t then
    let l := (freshCores s n k t).drop 1
    { s with sched := { s.sched with
        todoCores := s.sched.todoCores.filter (fun m => l.contains m) ++ s.sched.todoCores.filter (fun m => !l.contains m) } }
  else s

/-- A decoded bundle issues, or what stops it happens. -/
def issueDecoded (s : State) (n k : Nat) (t : Thread) (b : Bundle) : State :=
  match bundleStop s n k t b with
  | some r => r
  | none => if gangReady s n k t then summonMates (commitBundle s n k t b) n k t else heldBundle s n k

/-- The fetch of a bundle from the scratchpad reads its words, in which it may find an error (R266, R267). -/
def fetchRead (s : State) (n k : Nat) (t : Thread) : State :=
  if classOf t.ctl.pc = .l && (t.ctl.pc.toNat + 32 ≤ 0x78000 || t.mode = 2) then noteRead s (.core n) k (some t.tid) (keyL n t.ctl.pc.toNat) 32 else s

/-- One issue opportunity of a thread that nothing delays: fetch, decode, issue (R47, R251). -/
def issueBundle (s : State) (n k : Nat) (t : Thread) : State :=
  let s := atCursor (fetchRead s n k t) n k (t.ctl.pc + 32)
  let r : State := if s.cth.any (fun t => t.life.halted) then s else match fetchOf s n t with
    | .trap c v => trapCur s c (bundleSyl c) v
    | .walk => heldBundle (askXlate s n (pasidOf s t.task.rid) t.ctl.pc.toNat) n k
    | .fault => heldBundle (pageFault s t (bundleSyl cXLATE) t.ctl.pc true false) n k
    | .miss _ => heldBundle s n k
    | .bytes l =>
      match decodeBundle l with
      | .error (i, v) => trapCur s cILLEGAL i v
      | .ok b => issueDecoded (atBundle s b) n k t b
  { r with cur := Cursor.idle }

/-! ### A turn -/

/-- A counted load or acquire of a thread loses a turn, and lands when none is left and no older result to its register is in
flight (R83, R208). -/
def countMiss (s : State) (n : Nat) (m : Miss) : State :=
  match m.turns with
  | none => s
  | some r =>
    if r ≤ 1 then
      if (s.ownerThread n m.tid).any (fun t => behindFlight t m) then s
      else if m.data.isSome then landMiss s n m else modMiss s n m.id (fun m => { m with turns := none })
    else modMiss s n m.id (fun m => { m with turns := some (r - 1) })

/-- RESULT_LANDS: one turn passes for the results of a slot (R52, R53). Those of a context being saved stay (R192). -/
def execResultLands (core slot : Nat) (s : State) : Result :=
  .next (match s.thread core slot with
    | none => s
    | some t =>
      let s := if t.life.saving.isSome && t.life.faulted.isNone then s else landTurn s core slot
      ((s.core core).net.misses.filter (fun m => m.tid = t.tid)).foldl (fun s m => countMiss s core m) s)

/-- WAIT_COMPLETE: the wait of a slot is evaluated (R435). -/
def execWaitComplete (core slot : Nat) (s : State) : Result :=
  .next (let s := atCursor s core slot 0
    { evalWait s core slot with cur := Cursor.idle })

/-- Count a turn off a WAIT. -/
def countWait (s : State) (n k : Nat) : State :=
  s.modThread n k (fun t => { t with pipe := { t.pipe with waitLeft := t.pipe.waitLeft - 1 } })

/-- A stalled turn: the next bank pass, a turn of a WAIT, and an evaluation of a wait of the bundle (R55, R57, R422, R435). -/
def stallTurn (s : State) (n k : Nat) (t : Thread) : State :=
  let s := (doPass s n k (t.pipe.passes.getD 0 [])).modThread n k (fun t =>
    { t with pipe := { t.pipe with passes := t.pipe.passes.drop 1, stallLeft := t.pipe.stallLeft - 1 } })
  countWait (if t.pipe.wait = .none then s else stateOf (execWaitComplete n k s) s) n k

/-- HOLD_RELEASE: a slot whose thread waits for nothing tries its bundle (R48). -/
def execHoldRelease (core slot : Nat) (s : State) : Result :=
  .next (match s.thread core slot with
    | none => s
    | some t =>
      if s.frozenFor t || !mayReport s core t || s.coreClock core < t.pipe.fetchAt || t.pipe.wait ≠ .none || t.pipe.waitLeft ≠ 0 then s
      else issueBundle s core slot t)

/-- A turn in which a wait holds: a cause, or an evaluation; a WAITT that is over lets the bundle issue (R68, R435). -/
def waitTurn (s : State) (n k : Nat) (t : Thread) : State :=
  match causeNow s n k t with
  | some r => r
  | none =>
    let past := stateOf (execWaitComplete n k s) s
    let timed : Bool := match t.pipe.wait with | .waitt .. => true | _ => false
    let isOver : Bool := match past.thread n k with | some u => u.pipe.wait = .none && u.pipe.waitLeft = 0 | none => false
    if timed && isOver then stateOf (execHoldRelease n k past) past else countWait past n k

/-- A turn of an issued ERET: it returns once no result of its bundle is in flight (R258, R343). -/
def eretTurn (s : State) (n k : Nat) (t : Thread) (word : Word) : State :=
  let s := countWait s n k
  if !t.pipe.flights.isEmpty then s
  else
    let r := returnFromTrap (atCursor s n k 0) word
    let r := if r.cur.issue = .trapped then r else r.modCth (fun t => { t with ctl := { t.ctl with pc := r.cur.next } })
    { r with cur := Cursor.idle }

/-- A turn by which an ERET's own bundle delays the resumed one: its next bank pass alone (R55, R57, R258). -/
def owedTurn (s : State) (n k : Nat) (t : Thread) : State :=
  (doPass s n k (t.pipe.passes.getD 0 [])).modThread n k (fun t =>
    { t with pipe := { t.pipe with passes := t.pipe.passes.drop 1, stallLeft := t.pipe.stallLeft - 1, owed := t.pipe.owed - 1 } })

/-- The rest of a turn once its results have landed. -/
def turnBody (s : State) (n k : Nat) (t : Thread) : State :=
  if t.pipe.owed ≠ 0 then owedTurn s n k t
  else if t.pipe.stallLeft ≠ 0 then stallTurn s n k t
  else if t.life.faulted.isSome || t.life.saving.isSome || t.life.stopped || t.life.halted then s
  else if leaving s t then s.modThread n k leave
  else
    let first : Bool := match nextReport s t with
      | some (.trap _) => true | some (.handlerTrap _) => true | some (.xlate _) => true | _ => false
    if first && t.pipe.wait ≠ .gbar then stateOf (execTrapTaken n k s) s
    else if t.pipe.wait ≠ .none then (match t.pipe.wait with | .eret w => eretTurn s n k t w | _ => waitTurn s n k t)
    else if t.pipe.waitLeft ≠ 0 then (causeNow s n k t).getD (countWait s n k)
    else if s.coreClock n < t.pipe.fetchAt then (causeNow s n k t).getD s
    else issueBundle s n k t

/-- The code that a thread finds at its PC as it stood before its turn, where the turn changed it (R180). -/
def noteCode (before s : State) (n k : Nat) : State :=
  s.modThread n k (fun t =>
    let bytes (m : List Host.Cell) : List Byte := Memory.readBytes m (keyL n t.ctl.pc.toNat) 32
    { t with pipe := { t.pipe with
      oldCode := if classOf t.ctl.pc = .l && bytes before.mem ≠ bytes s.mem then some (bytes before.mem) else none } })

/-- A frozen member's turn: it takes a cause of its freeze, in place of the bundle that would issue here without the freeze, so that
the results visible in this turn have landed (R62, R63, R252). The turns by which an ERET's own bundle delays the resumed one, which
are no domain time, pass first (R343). -/
def frozenTurn (s : State) (n k : Nat) (t : Thread) : State :=
  if t.pipe.owed ≠ 0 then owedTurn (landTurn s n k) n k t
  else if (reportNow s n t).isSome then let s := landTurn s n k; stateOf (execTrapTaken n k s) s else s

/-- The turn of a core's slot in this clock (R47). A resumed thread counts its results from the turn in which it may issue
(R258); a frozen member takes only the causes of its freeze (R62, R63). -/
def slotTurn (s : State) (n : Nat) : State :=
  let k := s.coreClock n % 8
  match s.thread n k with
  | none => s
  | some t =>
    if s.frozenFor t then frozenTurn s n k t
    else if t.life.resuming && (s.coreClock n < t.pipe.fetchAt || t.life.saving.isSome) then s
    else
      let s := if t.life.resuming then s.modThread n k (fun t => { t with life := { t.life with resuming := false } })
        else stateOf (execResultLands n k s) s
      match s.thread n k with
      | some t => noteCode s (turnBody s n k t) n k
      | none => s

end Sys2Proof.Machine
end

