-- ==== Sys2Proof/Machine/Vault.lean ====
section
/-! DEFINITION. The Cellars' writing, the freeze wave, captures, capsules with their redaction and the Vault mailbox
(R269 to R274, R280 to R291). -/

namespace Sys2Proof.Machine

/-! ### Writing (R269, R270) -/

/-- One record is written: the oldest of staging, or the TIMEFULL that must precede it (R269, R271). -/
def writeOne (cap : Nat) (c : Cellar) : Cellar :=
  match c.staging with
  | [] => c
  | r :: q => if needsFull c r then ringFull cap c r.1 else { ringWrite cap c r with staging := q }

/-- Up to two records go to the ring, once those of earlier clocks than `g` have entered staging (R269, R270). -/
def writeTwo (cap g : Nat) (c : Cellar) : Cellar :=
  let c := if c.incoming.any (fun e => e.2.1 ≠ g) then settleRecords c else c
  writeOne cap (writeOne cap c)

/-- Has the staging queue of a core room for a user record, counting the records that are to enter (R269)? -/
def userRoom (c : Cellar) : Bool := c.staging.length + c.incoming.length < 16

/-- The USER record of a pushed value. -/
def userRecord (s : State) (n k : Nat) (t : Thread) (v : Vec) : State :=
  recordCore s n 0x17 k (s.tagOf t.task.rid) ((v.setWidth 80).setWidth 82) none (some t.tid)

/-- The oldest QEV entry of a slot leaves once it has landed and staging has room. -/
def drainQev (s : State) (n k : Nat) : State :=
  match s.thread n k with
  | none => s
  | some t =>
    match t.qev with
    | ⟨_, _, some v⟩ :: q =>
      if userRoom (s.core n).cellar then userRecord (s.modThread n k (fun t => { t with qev := q })) n k t v else s
    | _ => s

/-- The same for a thread that has ended. -/
def drainEnded (s : State) (n : Nat) (t : Thread) : State :=
  match t.qev with
  | ⟨_, _, some v⟩ :: q =>
    if userRoom (s.core n).cellar then
      userRecord (s.modOwner n t.tid (fun t => { t with qev := q })) n t.life.left t v
    else s
  | _ => s

/-- CELLAR_RECORD_WRITE: up to two records are written, and on a core user records enter, slots ascending (R269, R270). -/
def execCellarRecordWrite (p : Place) (s : State) : Result :=
  .next (let s := modCellar s p (writeTwo (cellarSize p) s.gtime)
    match p with
    | .die _ => s
    | .core n =>
      let s := (s.core n).ended.foldl (fun s t => drainEnded s n t) s
      allSlots.foldl (fun s k => drainQev s n k) s)

/-! ### Freezing (R280 to R283) -/

/-- Change a capture under way. -/
def modCapture (s : State) (id : Nat) (f : Capture → Capture) : State :=
  { s with vault := { s.vault with taking := s.vault.taking.map (fun c => if c.id = id then f c else c) } }

/-- FREEZE_WAVE_ARRIVAL: the wave of an origin reaches a Cellar: FREEZE is its last record; one already frozen writes
nothing (R281, R282). An event of the same clock that comes after the arrival in the model's order within a clock is not
recorded (DESIGN CHOICE, unsafe: R281 speaks of events after the receipt clock only; log entry 68). -/
def execFreezeWaveArrival (p : Place) (origin : BitVec 12) (s : State) : Result :=
  .next (
    let cap := (s.vault.taking.reverse).find? (fun c => c.origin.setWidth 12 = origin && c.wanted.contains p)
    let id := (cap.map (fun c => c.id)).getD 0
    let s :=
      if (cellarAt s p).frozen then s
      else blockCore (freezeCellar s p (mkRecord 0x06 0 0 (tForm origin s.gtime)) none none id) p
    modCapture s id (fun c => { c with wanted := c.wanted.filter (fun q => q ≠ p), reached := c.reached ++ [p] }))

/-- A device-fatal fault: the whole package freezes and every region is to end (R250, R265, R280). `val` is its TRAPV. Whether a DEVICE_ECC lies in the
Vault itself, and which unit detects it, is free. -/
def deviceFatal (s : State) (cause : BitVec 16) (val : Word) : State :=
  let s := s.tickFresh
  let own : Bool := cause = 0x20 && Config.happens s.sched.fresh
  let s := s.tickFresh
  let d := BitVec.ofNat 2 (Config.pick s.sched.fresh)
  let org := unitOrigin d (Config.pick s.sched.fresh / 4 % 4)
  let p := Place.die d
  let places := (((List.range 3072).filter (present s)).map Place.core) ++ [0, 1, 2, 3].map (fun i => Place.die (BitVec.ofNat 2 i))
  let id := if own then 0 else s.vault.nextId
  let was := (cellarAt s p).frozen
  let s := if was then s else freezeCellar s p (mkRecord 0x3F 0 0 (cForm (2 * 2 ^ 16 + cause.toNat) 0 0)) (some 0) none id
  let cap : Capture :=
    { id := id, time := s.gtime, cause := cause, trapv := val, cls := 2, locked := s.bar.ptplock, origin := org.setWidth 15, path := []
      tenants := (s.regions.map (fun r => r.tenant)).eraseDups, manid := 0, wanted := places.filter (fun q => q ≠ p)
      reached := [p], sections := [], tags := [], hasFull := true, rid := none }
  let s := if own then { s with vault := { s.vault with taking := [] } }
    else { s with vault := { s.vault with nextId := id + 1, taking := s.vault.taking ++ [cap] } }
  let s := { s with
    bar := { s.bar with fatal := true }
    regions := s.regions.map (fun (r : Region) => endWith r cause val false)
    cores := s.cores.map (fun (c : Nat × Core) =>
      (c.1, { c.2 with slots := c.2.slots.map (fun t => t.map (fun t => { t with life := { t.life with halted := true } })) })) }
  let fns := Fn.pf :: (List.range 16).map (fun i => Fn.vf (BitVec.ofNat 4 i))
  let s := fns.foldl (fun s f => eventTo s f 4 0 0) s
  sendWave s p org places

/-- DEVICE_FATAL (R250, R265, R280). The row names no array, address or firmware code, so TRAPV is free. -/
def execDeviceFatal (cause : BitVec 16) (s : State) : Result :=
  .next (deviceFatal s.tickFresh cause (Config.fatalValue s.sched.fresh))

/-- FATAL_DETECT: a fatal cause of the thread in a slot, or of the core's region, with its TRAPV; DEVICE_ECC and FIRMWARE are
device-fatal (R250, R265, R281). -/
def execFatalDetect (core slot : Nat) (cause : BitVec 16) (value : Word) (s : State) : Result :=
  .next (if cause.toNat ≥ 0x20 then deviceFatal s cause value else detectFatal s core slot cause 0 value)

/-- Does capture a stand before b: by GTIME, then the 12-bit ORIGIN of R273, without the slot that a capsule holds above it
(R282, R285)? -/
def capBefore (a b : Capture) : Bool :=
  a.time < b.time || (a.time = b.time && a.origin.toNat % 4096 < b.origin.toNat % 4096)

/-- The capture that the Vault serves (R282). -/
def headCapture (l : List Capture) : Option Capture :=
  match l with
  | [] => none
  | c :: r => match headCapture r with | some d => some (if capBefore d c then d else c) | none => some c

/-- The store image of a capture is complete: it is the newest kept, with the only full form (R284, R289). -/
def keepCapture (v : Vault) (c : Capture) : Vault :=
  { v with
    taking := v.taking.filter (fun x => x.id ≠ c.id)
    kept := ({ c with tags := v.assigns } :: v.kept.map (fun k => { k with hasFull := false })).take 8 }

/-- A Cellar runs again after its copy, with a TIMEFULL first (R283). -/
def unfreezeCellar (g cap : Nat) (c : Cellar) : Cellar :=
  { ringWrite cap c (g, mkRecord 0x16 0 0 (BitVec.ofNat 82 (g % 2 ^ 64))) with frozen := false, foreign := 0 }

/-- Every capture whose Cellars are all copied is kept, in the order in which they are served (R282, R284). -/
def completeCaptures (fuel : Nat) (v : Vault) : Vault :=
  match fuel with
  | 0 => v
  | fuel + 1 =>
    match headCapture v.taking with
    | some c => if c.wanted.isEmpty && c.reached.isEmpty then completeCaptures fuel (keepCapture v c) else v
    | none => v

/-- VAULT_COPY_DONE: the Vault has copied a frozen Cellar for the capture that it serves, and for every later one that has
reached it; the Cellar unfreezes and the core takes regions again (R283, R284). -/
def execVaultCopyDone (p : Place) (s : State) : Result :=
  .next (match headCapture s.vault.taking with
    | none => s
    | some h =>
      if !h.reached.contains p then s
      else
        let cel := cellarAt s p
        let take (c : Capture) : Capture :=
          if c.reached.contains p then
            { c with reached := c.reached.filter (fun q => q ≠ p), sections := c.sections ++ [(p, decide (cel.foreign ≠ c.id), cel)] }
          else c
        let s := { s with vault := { s.vault with taking := s.vault.taking.map take } }
        let s := modCellar s p (unfreezeCellar s.gtime (cellarSize p))
        let s := match p with | .core n => s.modCore n (fun c => { c with blocked := false }) | .die _ => s
        { s with vault := completeCaptures s.vault.taking.length s.vault })

/-! ### Redaction (R287, R288) -/

/-- The assignment to which a record resolves: that of its tag whose span holds its time (R272). -/
def resolveTag (tags : List Assign) (r : Nat × BitVec 128) : Option Assign :=
  let tag : BitVec 13 := r.2.extractLsb' 106 13
  if tag = 0 then none
  else (tags.reverse).find? (fun a => a.tag = tag && a.start ≤ r.1 && (match a.stop with | some e => r.1 ≤ e | none => true))

/-- A record with TYPE, SLOT, RTAG and DT only. -/
def bareRecord (v : BitVec 128) : BitVec 128 := v >>> 82 <<< 82

/-- A class-0 record in the operator view: its payload without BA, addresses and values, for the types that keep one. -/
def operatorPayload (v : BitVec 128) : BitVec 128 :=
  let ty := v.toNat / 2 ^ 122
  if [0x01, 0x02, 0x03, 0x04, 0x07, 0x08, 0x09, 0x0A, 0x0B, 0x18, 0x3F].contains ty then
    v &&& ~~~(BitVec.ofNat 128 ((2 ^ 29 - 1) * 2 ^ 32))
  else if ty = 0x11 then v &&& ~~~(BitVec.ofNat 128 ((2 ^ 48 - 1) * 2 ^ 34))
  else if ty = 0x13 || ty = 0x1A || ty = 0x1B then v
  else bareRecord v

/-- A record in the operator view. -/
def operatorRecord (tags : List Assign) (r : Nat × BitVec 128) : BitVec 128 :=
  match resolveTag tags r with
  | none => r.2
  | some a => if a.rclass = 1 then r.2 else if a.rclass = 0 then operatorPayload r.2 else bareRecord r.2

/-- The key of a drawn pseudonym. -/
def pseudKey (id : Nat) (ten : BitVec 16) (a : Assign) : Nat × BitVec 16 × BitVec 13 × Nat := (id, ten, a.tag, a.start)

/-- The pseudonym of a foreign region. -/
def pseudOf (s : State) (id : Nat) (ten : BitVec 16) (a : Assign) : BitVec 13 :=
  ((s.vault.pseud.find? (fun e => e.1 = pseudKey id ten a)).map (fun e => e.2)).getD 0

/-- A record in the view of a tenant. -/
def tenantRecord (s : State) (c : Capture) (ten : BitVec 16) (r : Nat × BitVec 128) : BitVec 128 :=
  match resolveTag c.tags r with
  | none => r.2
  | some a =>
    if a.tenant = ten then r.2
    else
      let keep : BitVec 128 := bareRecord r.2 &&& ~~~(BitVec.ofNat 128 (0x1FFF * 2 ^ 106))
      keep ||| BitVec.ofNat 128 ((pseudOf s c.id ten a).toNat * 2 ^ 106)

/-- The sections of a capture in a capsule's order: dies, then cores, each ascending (R285). -/
def orderedSections (c : Capture) : List (Place × Bool × Cellar) :=
  ([0, 1, 2, 3].filterMap (fun d => c.sections.find? (fun x => x.1 = .die (BitVec.ofNat 2 d)))) ++
    (List.range 3072).filterMap (fun n => c.sections.find? (fun x => x.1 = .core n))

/-- A ring's records, oldest first. -/
def ringRecords (c : Cellar) : List (Nat × BitVec 128) :=
  (c.ring.filter (fun e => c.wptr ≤ e.1)).map (fun e => e.2) ++ (c.ring.filter (fun e => e.1 < c.wptr)).map (fun e => e.2)

/-- How many records of a section a form keeps (R284). -/
def keepCount (c : Capture) (full : Bool) (p : Place) : Nat :=
  if full then 16384
  else
    match p with
    | .die _ => 1024
    | .core _ =>
      let n := (c.sections.filter (fun x => match x.1 with | .core _ => true | .die _ => false)).length
      min 1024 (8 * (4096 / n))

/-- The records of a section in a form. -/
def sectionRecords (c : Capture) (full : Bool) (x : Place × Bool × Cellar) : List (Nat × BitVec 128) :=
  lastN (keepCount c full x.1) (ringRecords x.2.2)

/-- The assignments that a form's records carry, each once. -/
def carried (c : Capture) (full : Bool) : List Assign :=
  (((orderedSections c).map (fun x => (sectionRecords c full x).filterMap (resolveTag c.tags))).flatten).eraseDups

/-- Draw a pseudonym for a foreign region: no tag of the viewer's regions in the capsule, and no other's (R288). -/
def drawPseud (s : State) (c : Capture) (ten : BitVec 16) (mine : List (BitVec 13)) (a : Assign) : State :=
  if s.vault.pseud.any (fun e => e.1 = pseudKey c.id ten a) then s
  else
    let used := mine ++ (s.vault.pseud.filter (fun e => e.1.1 = c.id && e.1.2.1 = ten)).map (fun e => e.2)
    let s := s.tickFresh
    let first := (Config.pseudonym s.sched.fresh).toNat
    let tag := (((List.range 8191).map (fun i => BitVec.ofNat 13 ((first + i) % 8191 + 1))).find? (fun t => !used.contains t)).getD 0
    { s with vault := { s.vault with pseud := s.vault.pseud ++ [(pseudKey c.id ten a, tag)] } }

/-- Every pseudonym of a capsule and viewer. -/
def drawPseuds (s : State) (c : Capture) (ten : BitVec 16) : State :=
  let all := carried c true
  let mine := (all.filter (fun a => a.tenant = ten)).map (fun a => a.tag)
  (all.filter (fun a => a.tenant ≠ ten)).foldl (fun s a => drawPseud s c ten mine a) s

/-! ### Capsules (R284 to R286) -/

/-- A tag-map entry (R285). -/
def mapEntry (tag : BitVec 13) (a : Option Assign) : List Byte :=
  match a with
  | some a => leBytes tag.toNat 2 ++ leBytes 0 2 ++ leBytes a.rid.toNat 2 ++ leBytes a.tenant.toNat 2 ++ leBytes a.start 8 ++
      leBytes (a.stop.getD 0) 8
  | none => leBytes tag.toNat 2 ++ leBytes 1 2 ++ leBytes 0 20

/-- Insert a map entry in ascending tag. -/
def insertTag (e : BitVec 13 × Option Assign) (l : List (BitVec 13 × Option Assign)) : List (BitVec 13 × Option Assign) :=
  match l with
  | [] => [e]
  | x :: r => if e.1.toNat < x.1.toNat then e :: x :: r else x :: insertTag e r

/-- The tag map of a view (R285). -/
def tagMap (s : State) (c : Capture) (full : Bool) (viewer : Option (BitVec 16)) : List (BitVec 13 × Option Assign) :=
  ((carried c full).map (fun a =>
    match viewer with
    | some ten => if a.tenant = ten then (a.tag, some a) else (pseudOf s c.id ten a, none)
    | none => (a.tag, some a))).foldl (fun l e => insertTag e l) []

/-- A section of a view (R285). -/
def sectionBytes (s : State) (c : Capture) (full : Bool) (viewer : Option (BitVec 16)) (x : Place × Bool × Cellar) : List Byte :=
  let rs := sectionRecords c full x
  let (kind, org) : Nat × BitVec 12 := match x.1 with | .core n => (0, originOf n) | .die d => (1, unitOrigin d 0)
  let newest := match rs.getLast? with | some r => r.1 | none => 0
  let view (r : Nat × BitVec 128) : BitVec 128 :=
    match viewer with | some ten => tenantRecord s c ten r | none => operatorRecord c.tags r
  leBytes kind 2 ++ leBytes org.toNat 2 ++ leBytes rs.length 2 ++
    leBytes ((if x.2.2.hlost then 1 else 0) + (if x.2.1 then 2 else 0)) 2 ++ leBytes x.2.2.lost.toNat 2 ++ leBytes 0 6 ++
    leBytes (if x.2.1 then x.2.2.foreign else 0) 8 ++ leBytes newest 8 ++
    (rs.map (fun r => leBytes (view r).toNat 16)).flatten

/-- The firmware measurement digest: SHA-384 of measurement blocks 1 to 4 in order (R308). -/
def firmwareDigest : BitVec 384 :=
  Config.sha384 ((([1, 2, 3, 4] : List Nat).map Config.measurement).flatten)

/-- The 256 header bytes of a view (R285). -/
def headerBytes (s : State) (c : Capture) (full : Bool) (viewer : Option (BitVec 16)) (len : Nat) : List Byte :=
  let path := c.path.take 8
  [0x4B, 0x5A, 0x43, 0x50, 0x01, 0x00, (if viewer.isSome then 0 else 1), (if full then 1 else 0)] ++ leBytes len 8 ++
    leBytes Config.serialDigest.toNat 48 ++ leBytes c.id 8 ++ leBytes c.time 8 ++ leBytes c.cause.toNat 2 ++
    leBytes (c.cls.toNat + (if c.locked then 4 else 0) + (if c.sections.any (fun x => x.2.2.hlost) then 8 else 0)) 2 ++
    leBytes c.origin.toNat 2 ++ leBytes c.sections.length 2 ++ leBytes (viewer.getD 0).toNat 2 ++ leBytes path.length 2 ++
    (path.map (fun r => leBytes r.toNat 2)).flatten ++ leBytes 0 (2 * (8 - path.length)) ++ leBytes 0 4 ++
    leBytes firmwareDigest.toNat 48 ++ leBytes c.manid 8 ++ leBytes s.gtime 8 ++ leBytes 0 80

/-- n big-endian bytes. -/
def beBytes (v n : Nat) : List Byte := (leBytes v n).reverse

/-- A view of a store image (R284 to R286). -/
def viewBytes (s : State) (c : Capture) (full : Bool) (viewer : Option (BitVec 16)) : List Byte :=
  let tags := tagMap s c full viewer
  let body := leBytes tags.length 8 ++ (tags.map (fun e => mapEntry e.1 e.2)).flatten ++
    ((orderedSections c).map (sectionBytes s c full viewer)).flatten
  let all := headerBytes s c full viewer (256 + body.length + 96) ++ body
  all ++ beBytes (Config.sign (Config.sha384 all)).toNat 96

/-! ### The mailbox (R290, R291) -/

/-- May the host reach the registers, DEVSTAT apart: stage 4 has begun, and no stage failed (R315, R316)? -/
def regsOpen (s : State) : Bool := 4 ≤ s.bar.stage && s.bar.failst = 0xF

/-- An entry of a function's list, or a default. -/
def fnGet {α : Type} (l : List (Fn × α)) (f : Fn) (d : α) : α :=
  match l.find? (fun e => e.1 = f) with | some e => e.2 | none => d

/-- Set a function's entry. -/
def fnSet {α : Type} (l : List (Fn × α)) (f : Fn) (v : α) : List (Fn × α) := l.filter (fun e => e.1 ≠ f) ++ [(f, v)]

/-- The tenant of a function's default view: none is the operator's. -/
def fnTenant (s : State) (f : Fn) : Option (BitVec 16) :=
  match f with | .pf => none | .vf n => some ((vfBind s n).setWidth 16)

/-- Is a function bound to a tenant? The physical function needs no binding. -/
def bound (s : State) (f : Fn) : Bool := match f with | .pf => true | .vf n => (vfBind s n).getLsbD 63

/-- May a function fetch a capsule at all (R290)? -/
def mayFetch (s : State) (f : Fn) (c : Capture) : Bool :=
  match f with
  | .pf => true
  | .vf n => bound s f && c.tenants.contains ((vfBind s n).setWidth 16)

/-- The mailbox of a function. -/
def boxOf (s : State) (f : Fn) : Mailbox := fnGet s.vault.boxes f Mailbox.reset

/-- Change the mailbox of a function. -/
def modBox (s : State) (f : Fn) (g : Mailbox → Mailbox) : State :=
  { s with vault := { s.vault with boxes := fnSet s.vault.boxes f (g (boxOf s f)) } }

/-- What a Vault operation answers: the state after it, its status and, where it is OK, up to `span` bytes (R291, R292). -/
structure VaultAns where
  s : State
  st : Byte
  data : Option (List Byte)

/-- An operation refused with a status. -/
def refuseOp (s : State) (st : Byte) : VaultAns := ⟨s, st, none⟩

/-- The bytes of an answer from an offset. -/
def windowAt (span : Nat) (l : List Byte) (off : Nat) : List Byte := (l.drop off).take span

/-- LIST (R291): the capsules that the function may fetch; their order is open (log entry 40). -/
def listOp (s : State) (fn : Fn) (voff : BitVec 32) (span : Nat) : VaultAns :=
  let l := s.vault.kept.filter (mayFetch s fn)
  let s := s.tickFresh
  let entries := (shuffle l.length s.sched.fresh l).map (fun c => leBytes c.id 8 ++ leBytes c.time 8)
  let s := { s with sched := { s.sched with fresh := s.sched.fresh + l.length } }
  ⟨s, 0x00, some (windowAt span entries.flatten voff.toNat)⟩

/-- Why a capsule id is not kept: GONE where a capture had it, else NOCAP (R291). -/
def missingCap (s : State) (id : Nat) : Byte :=
  if id = 0 || s.vault.nextId ≤ id || s.vault.taking.any (fun c => c.id = id) then 0x30 else 0x31

/-- FETCH (R291). With VIEW = 1, VID[15:0] names the tenant and VID[63:16] the capsule. A kept view is read only by the
function and for the viewer that formed it (R290). -/
def fetchOp (s : State) (fn : Fn) (form view : Byte) (vid : Word) (voff : BitVec 32) (span : Nat) : VaultAns :=
  let id := if view = 1 then vid.toNat / 2 ^ 16 else vid.toNat
  let viewer := if view = 1 then some (vid.setWidth 16) else fnTenant s fn
  let isKept (e : View) : Bool := e.fn = fn && e.vid = vid && e.form = form && e.view = view && e.viewer = viewer
  if !bound s fn then refuseOp s 0x32
  else
    match (if voff = 0 then none else s.vault.views.find? isKept) with
    | some e => ⟨s, 0x00, some (windowAt span e.bytes voff.toNat)⟩
    | none =>
      match s.vault.kept.find? (fun c => c.id = id) with
      | none => refuseOp s (missingCap s id)
      | some c =>
        if !mayFetch s fn c then refuseOp s 0x32
        else if form = 1 && !c.hasFull then refuseOp s 0x33
        else if voff ≠ 0 then refuseOp s 0x35
        else
          let s := match viewer with | some ten => drawPseuds s c ten | none => s
          let l := viewBytes s c (form = 1) viewer
          let s := { s with vault := { s.vault with
            views := s.vault.views.filter (fun e => e.fn ≠ fn) ++ [⟨fn, vid, form, view, viewer, l⟩] } }
          ⟨s, 0x00, some (windowAt span l 0)⟩

/-- ERASE (R291). -/
def eraseOp (s : State) (fn : Fn) : VaultAns :=
  if fn ≠ .pf then refuseOp s 0x34 else ⟨{ s with vault := { s.vault with kept := [] } }, 0x00, some []⟩

/-- BADOP of any operation: a FORM or VIEW above 1, a misaligned VOFF, or VIEW = 1 on a virtual function (R291). -/
def vaultBad (fn : Fn) (form view : Byte) (voff : BitVec 32) : Bool :=
  1 < form.toNat || 1 < view.toNat || voff.toNat % 256 ≠ 0 || (view = 1 && fn ≠ .pf)

/-- An operation by its OP code; any other is BADOP (R291). -/
def vaultOp (s : State) (fn : Fn) (op : Nat) (form view : Byte) (vid : Word) (voff : BitVec 32) (span : Nat) : VaultAns :=
  if vaultBad fn form view voff then refuseOp s 0x34
  else
    match op with
    | 1 => listOp s fn voff span
    | 2 => fetchOp s fn form view vid voff span
    | 3 => eraseOp s fn
    | _ => refuseOp s 0x34

/-- A mailbox command ends: VSTAT is final, GO reads 0, and where the status is OK the window is filled (R291). -/
def endCommand (fn : Fn) (a : VaultAns) : State :=
  (modBox a.s fn (fun b =>
    { b with
      cmd := b.cmd &&& 0x7FFFFFFF, stat := a.st, busy := false
      len := match a.data with | some l => l.length | none => 0
      win := match a.data with | some l => l ++ List.replicate (256 - l.length) 0 | none => b.win })).emit
    (.reply fn a.st (a.data.getD []))

/-- The operation that the registers of a mailbox name (R291). -/
def runMailbox (s : State) (fn : Fn) : State :=
  let b := boxOf s fn
  endCommand fn (vaultOp s fn (b.cmd.extractLsb' 24 4).toNat (b.cmd.extractLsb' 8 8) (b.cmd.extractLsb' 0 8) b.vid b.voff 256)

/-- VCMD of an operation (R291). -/
def vcmdOf (op : Nat) (form view : Byte) : BitVec 32 :=
  BitVec.ofNat 32 (2 ^ 31 + op * 2 ^ 24 + form.toNat * 2 ^ 8 + view.toNat)

/-- A command given whole: its registers are written and it runs; it is ignored while BUSY, and where the function exposes
DEVSTAT alone (R291, R315). -/
def command (s : State) (fn : Fn) (op : Nat) (form view : Byte) (vid : Word) (voff : BitVec 32) : State :=
  if (boxOf s fn).busy || !regsOpen s then s
  else runMailbox (modBox s fn (fun b => { b with cmd := vcmdOf op form view, vid := vid, voff := voff })) fn

/-- LIST (R291); VID stands as it is. -/
def execList (fn : Fn) (voff : BitVec 32) (s : State) : Result := .next (command s fn 1 0 0 (boxOf s fn).vid voff)

/-- FETCH (R291). -/
def execFetch (fn : Fn) (form view : Byte) (vid : Word) (voff : BitVec 32) (s : State) : Result :=
  .next (command s fn 2 form view vid voff)

/-- ERASE (R291); VID and VOFF stand as they are. -/
def execErase (fn : Fn) (s : State) : Result := .next (command s fn 3 0 0 (boxOf s fn).vid (boxOf s fn).voff)

/-- The halves of VID. -/
def putHalf (w : Word) (hi : Bool) (v : BitVec 32) : Word :=
  BitVec.ofNat 64 (if hi then w.toNat % 2 ^ 32 + v.toNat * 2 ^ 32 else w.toNat / 2 ^ 32 * 2 ^ 32 + v.toNat)

/-- A host write of a 32-bit mailbox register at an offset of the capability: reserved bits and read-only registers ignore it,
and GO starts the command, whose end is free in time (R7, R8, R291, R465; log entry 5). -/
def mailWrite (fn : Fn) (off : Nat) (val : BitVec 32) (s : State) : State :=
  if (boxOf s fn).busy || !regsOpen s then s
  else
    match off with
    | 0x08 =>
      let s := modBox s fn (fun b => { b with cmd := val &&& 0x8F00FFFF, busy := val.getLsbD 31 })
      if val.getLsbD 31 then
        let s := s.tickFresh
        s.schedule (s.sched.clock + 1 + Config.delay s.sched.fresh) (.mailDone fn)
      else s
    | 0x10 => modBox s fn (fun b => { b with vid := putHalf b.vid false val })
    | 0x14 => modBox s fn (fun b => { b with vid := putHalf b.vid true val })
    | 0x18 => modBox s fn (fun b => { b with voff := val })
    | _ => s

/-- The command under way ends (R291). -/
def mailDone (fn : Fn) (s : State) : State := if (boxOf s fn).busy then runMailbox s fn else s

/-- What a 32-bit mailbox register reads as (R8, R291). -/
def mailReg (b : Mailbox) (off : Nat) : Nat :=
  match off with
  | 0x08 => b.cmd.toNat
  | 0x0C => (if b.busy then 2 ^ 31 else 0) + b.stat.toNat
  | 0x10 => b.vid.toNat % 2 ^ 32
  | 0x14 => b.vid.toNat / 2 ^ 32
  | 0x18 => b.voff.toNat
  | 0x1C => b.len
  | _ => leValue ((b.win.drop (off - 0x20)).take 4)

/-- A host read of a 32-bit mailbox register at an offset of the capability, +0x08 to +0x11F (R291, R465). -/
def mailRead (fn : Fn) (off : Nat) (s : State) : State :=
  if regsOpen s && 0x08 ≤ off && off < 0x120 && off % 4 = 0 then s.emit (.read (BitVec.ofNat 64 (mailReg (boxOf s fn) off))) else s

/-- A Vault operation in its SPDM form: a status and up to 1,024 bytes; its views are the mailbox's (R292). -/
def spdmVault (fn : Fn) (op form view : Byte) (vid : Word) (off : BitVec 32) (s : State) : State :=
  let a := vaultOp s fn op.toNat form view vid off 1024
  if regsOpen s then a.s.emit (.reply fn a.st (a.data.getD [])) else s

/-! ### Loss of power (R289) -/

/-- What a loss of power leaves: memory, state and the full capsule are gone; the capsule store in MRAM and the counters
kept with it remain. The package stands at reset. -/
def afterPowerLoss (s : State) : State :=
  let kept := s.vault.kept.map (fun (c : Capture) => { c with hasFull := false })
  { State.reset with
    absent := s.absent
    sched := { State.reset.sched with fresh := s.sched.fresh }
    vault := { Vault.reset with nextId := s.vault.nextId, pseud := s.vault.pseud, kept := kept }
    nextMan := s.nextMan }

/-- POWER_LOSS (R289). -/
def execPowerLoss (s : State) : Result := .next (afterPowerLoss s)

end Sys2Proof.Machine
end

