-- ==== Sys2Proof/Machine/Platform.lean ====
section
/-! DEFINITION. Bring-up and resets, PTP lock, links, power and ageing, error injection and the CIM scrub, and the arming of
Ringmaster entries (R66, R71 to R73, R169, R266, R267, R289, R315 to R318, R320, R321). -/

namespace Sys2Proof.Machine

/-! ### Bring-up and resets (R289, R315, R316) -/

/-- Stage 5 starts with each enabled link in training; a retraining that a write of stage 4 began goes on, and a link that it
trained has trained (R315, R318). -/
def startTraining (s : State) : State :=
  { s with links := s.links.map (fun (l : Link) =>
      if l.training || l.stat.getLsbD 1 then l else { l with training := l.ctl.getLsbD 7, again := false }) }

/-- The package is ready (R315). -/
def becomeReady (s : State) : State := { s with bar := { s.bar with stage := 7, ready := true } }

/-- BRINGUP_STAGE_END: a failure in stage 2 or 3 sets FAILST, and bring-up ends with stage 4; stage 5 ends with no link in
training, stage 6 at lock (R315). -/
def execBringupStageEnd (ok : Bool) (s : State) : Result :=
  .next (let st := s.bar.stage
    let stageTo (n : Nat) : State := { s with bar := { s.bar with stage := n } }
    if st < 4 then
      if !ok && st ≠ 1 then { s with bar := { s.bar with stage := 4, failst := BitVec.ofNat 4 st } } else stageTo (st + 1)
    else if s.bar.failst ≠ 0xF then s
    else if st = 4 then startTraining (stageTo 5)
    else if st = 5 then (if s.links.toList.any (fun l => l.training) then s else if s.bar.ptplock then becomeReady s else stageTo 6)
    else if st = 6 && s.bar.ptplock then becomeReady s
    else s)

/-- POWER_ON (R315). -/
def execPowerOn (s : State) : Result := .next (afterPowerLoss s)

/-- COLD_RESET: the full capsule is lost (R289). -/
def execColdReset (s : State) : Result := .next (afterPowerLoss s)

/-- Does an event come from outside the package, rather than from a step of the device or as the answer to one of its requests? -/
def Event.outside (e : Event) : Bool :=
  match e with
  | .taskReady .. => false
  | .freezeWaveArrival .. => false
  | .fatalDetect .. => false
  | .gbarRelease .. => false
  | .ringmasterArm .. => false
  | .mxrdDone .. => false
  | .loadLanding .. => false
  | .engineFailure .. => false
  | .mailDone .. => false
  | .pageResponse .. => false
  | .translationCompletion .. => false
  | _ => true

/-- A Cellar over a warm reset: its ring stays (R268). -/
def keepRing (c : Cellar) : Cellar := { Cellar.reset with ring := c.ring, wptr := c.wptr }

/-- WARM_RESET: every region ends, the Cellars' records, the capsule store, the tags and the memory stay, and the stages repeat from
1 (R268, R289, R315); clocks count anew (R9), and what reaches the package from outside goes on (log entry 43). -/
def execWarmReset (s : State) : Result :=
  .next { State.reset with
    absent := s.absent
    sched := { State.reset.sched with
      g3 := s.sched.g3, fresh := s.sched.fresh, nextId := s.sched.nextId
      agenda := (s.sched.agenda.filter (fun e => Event.outside e.2)).map (fun e => (e.1 - s.sched.clock, e.2)) }
    mem := s.mem
    cores := s.cores.map (fun c => (c.1, { Core.reset with cellar := keepRing c.2.cellar }))
    dies := s.dies.map (fun d => { Die.reset with cellar := keepRing d.cellar })
    vault := { Vault.reset with
      nextId := s.vault.nextId, pseud := s.vault.pseud, kept := s.vault.kept, views := s.vault.views, lastTag := s.vault.lastTag
      assigns := s.vault.assigns.map (fun a => if a.stop.isNone then { a with stop := some s.gtime } else a) }
    manifests := s.manifests.map (fun (m : Manifest) => { m with closed := true, flags := m.flags ||| 1 })
    nextMan := s.nextMan }

/-- A change of the servo's lock, with its event (R314, R316). -/
def setLock (s : State) (locked : Bool) : State :=
  if s.bar.ptplock = locked then s
  else eventTo { s with bar := { s.bar with ptplock := locked } } .pf 3 0 (if locked then 1 else 0)

/-- PTP_LOCK_CHANGE (R316). -/
def execPtpLockChange (locked : Bool) (s : State) : Result := .next (setLock s locked)

/-- PTP_LOCK_TIMEOUT: stage 6 ends without lock (R315). -/
def execPtpLockTimeout (s : State) : Result := .next (if s.bar.stage = 6 then becomeReady s else s)

/-! ### Links (R317, R318) -/

/-- Change a link. -/
def modLink (s : State) (k : BitVec 4) (f : Link → Link) : State :=
  match s.links[k.toNat]? with
  | some l => { s with links := s.links.setIfInBounds k.toNat (f l) }
  | none => s

/-- A link; numbers 12 to 15 name none. -/
def linkAt (s : State) (k : BitVec 4) : Option Link := s.links[k.toNat]?

/-- The event of a link, with LINKSTAT[15:0] (R314). -/
def linkEvent (s : State) (k : BitVec 4) : State :=
  match linkAt s k with
  | some l => eventTo s .pf 2 k.toNat (l.stat.toNat % 2 ^ 16)
  | none => s

/-- A link without TRAINED. -/
def untrained (l : Link) : Link := { l with stat := l.stat &&& ~~~(2 : Word) }

/-- A retraining begins: TRAINED clears, with an event, and the link's packets are tried on others (R318, R319). -/
def beginRetrain (s : State) (k : BitVec 4) : State :=
  relink (linkEvent (modLink s k (fun l => { untrained l with training := true, again := true })) k)

/-- A write of LINKCTL: EN cleared takes the link down at once, with the events of a start and an end; EN set again, or
RETRAIN, retrains it (R317, R318). -/
def writeLinkctl (s : State) (k : BitVec 4) (val : Word) : State :=
  match linkAt s k with
  | none => s
  | some l =>
    let s := modLink s k (fun l => { l with ctl := val.setWidth 8 &&& 0xC7 })
    if !val.getLsbD 7 then
      if l.ctl.getLsbD 7 then
        relink (linkEvent (linkEvent (modLink s k (fun l => { untrained l with training := false })) k) k)
      else s
    else if !l.ctl.getLsbD 7 || val.getLsbD 5 then beginRetrain s k
    else s

/-- RETRAIN: a write of LINKCTL with RETRAIN set (R318). -/
def execRetrain (k : BitVec 4) (val : Word) (s : State) : Result :=
  .next (if regsOpen s then writeLinkctl s k (val ||| 0x20) else s)

/-- LINK_ENABLE: a write of LINKCTL with EN set (R318). -/
def execLinkEnable (k : BitVec 4) (val : Word) (s : State) : Result :=
  .next (if regsOpen s then writeLinkctl s k (val ||| 0x80) else s)

/-- LINK_DISABLE: a write of LINKCTL with EN clear (R318). -/
def execLinkDisable (k : BitVec 4) (val : Word) (s : State) : Result :=
  .next (if regsOpen s then writeLinkctl s k (val &&& ~~~(0x80 : Word)) else s)

/-- LINK_ERROR_RETRAIN: the error ratio of a trained link retrains it (R318). -/
def execLinkErrorRetrain (k : BitVec 4) (s : State) : Result :=
  .next (match linkAt s k with
    | some l => if l.stat.getLsbD 1 then beginRetrain s k else s
    | none => s)

/-- LINKSTAT after a training: LAT a multiple of 16, the strong code at 224 Gb/s, eligible with SCHED on 16 lanes (R317). -/
def trainedStat (l : Link) (t : Training) : Word :=
  let lat := min ((t.lat.toNat + 15) / 16 * 16) 0xFFFF0
  BitVec.ofNat 64 (t.partner.toNat * 2 ^ 32 + lat * 2 ^ 12 + t.plink.toNat * 2 ^ 8 + t.lanes.toNat * 2 ^ 6 +
    t.rate.toNat * 2 ^ 4 + (if t.rate = 3 then 8 else 0) + (if t.sched && l.ctl.getLsbD 6 && t.lanes = 3 then 4 else 0) + 2)

/-- LINK_TRAINING_DONE: training ends on lanes and at a rate that RATES allows; a retraining writes its event (R317,
R318). -/
def execLinkTrainingDone (k : BitVec 4) (t : Training) (s : State) : Result :=
  .next (match linkAt s k with
    | none => s
    | some l =>
      if !l.training || t.lanes = 0 || t.rate = 0 || !l.ctl.getLsbD (t.rate.toNat - 1) then s
      else
        let s := modLink s k (fun l => { l with stat := trainedStat l t, training := false })
        relink (if l.again then linkEvent s k else s))

/-- LINK_TRAIN_TIMEOUT: the attempt fails (R315). -/
def execLinkTrainTimeout (k : BitVec 4) (s : State) : Result :=
  .next (match linkAt s k with
    | none => s
    | some l =>
      if !l.training then s
      else
        let s := modLink s k (fun l => { l with training := false })
        if l.again then linkEvent s k else s)

/-! ### Power (R66, R320) -/

/-- An island is throttled: by one pulse, or with all the islands of its domains by whole turns, Lf clocks after the
command when they lie on more than one die (R66, R320). -/
def throttleIsland (s : State) (i : Nat) : State :=
  if !timedIsland s i then swallowOn s i 1 (islandClock s i + 1)
  else
    let set := islandClosure s s.domains.length [i]
    let far := 1 < ((set.map (fun j => j / 16)).eraseDups).length
    set.foldl (fun s j =>
      let c := islandClock s j
      let f := if far then c + Config.lfManyDies else c
      swallowOn s j 8 (8 * (f / 8) + 8)) s

/-- Is a number that of an island (R320)? -/
def islandOk (i : Nat) : Bool := i < 64 && i % 16 < 12

/-- PWRCTL.LIMIT as it acts: 400 to 1,600 W (R320). -/
def powerLimit (s : State) : Nat := min 1600 (max 400 s.bar.pwrlimit.toNat)

/-- Must the power controller throttle: above 105 °C until below 100 °C, or with the average power above the limit (R320)? -/
def mustThrottle (s : State) : Bool := s.power.thermal || powerLimit s < (s.bar.pwrstat.extractLsb' 48 16).toNat

/-- Every island that owes no pulse is throttled. -/
def throttleAll (s : State) : State :=
  ((List.range 64).filter islandOk).foldl (fun s i =>
    if (assocGet s.power.swallow i (0, 0)).1 = 0 then throttleIsland s i else s) s

/-- The hottest junction, as PWRSTAT.TEMP shows it (R320). -/
def setTemp (s : State) (temp : Byte) : State :=
  { s with
    power := { s.power with thermal := 105 < temp.toNat || (s.power.thermal && 100 ≤ temp.toNat) }
    bar := { s.bar with pwrstat := (s.bar.pwrstat &&& ~~~(BitVec.ofNat 64 (0xFF * 2 ^ 40))) ||| (temp.setWidth 64 <<< 40) } }

/-- The 1 ms average of the power, as PWRSTAT.POWER shows it (R320). -/
def setWatts (s : State) (watts : BitVec 16) : State :=
  { s with bar := { s.bar with pwrstat := (s.bar.pwrstat.setWidth 48).setWidth 64 ||| (watts.setWidth 64 <<< 48) } }

/-- POWER_CONTROL: the measured values, and one action on an island, which loses `thr` pulses or whole turns or has its clock changed;
where the controller must throttle, every island is throttled (R320). -/
def execPowerControl (watts : BitVec 16) (temp thr : Byte) (island : BitVec 6) (mhz : BitVec 12) (swallow : Bool) (s : State) :
    Result :=
  .next (let s := setTemp (setWatts s watts) temp
    let i := island.toNat
    let s := if !islandOk i then s else if swallow then (List.range thr.toNat).foldl (fun s _ => throttleIsland s i) s else setClock s i mhz.toNat
    if mustThrottle s then throttleAll s else s)

/-- THERMAL_THROTTLE: above 105 °C every island is throttled, until the temperature falls below 100 °C (R320). -/
def execThermalThrottle (temp : Byte) (s : State) : Result :=
  .next (let s := setTemp s temp
    if s.power.thermal then throttleAll s else s)

/-- The GTIME of 24 hours of service (R321). -/
def ageingStart : Nat := 24 * 3600 * 16 * 10 ^ 9

/-- AGEING_UPDATE: the prediction of a die, published from 24 hours on (R321). -/
def execAgeingUpdate (d : BitVec 2) (eol : BitVec 16) (conf : Byte) (worst : BitVec 6) (s : State) : Result :=
  .next (if s.gtime < ageingStart then s
    else s.modDie d (fun e => { e with
      agemon := BitVec.ofNat 64 (eol.toNat * 2 ^ 32 + min conf.toNat 100 * 2 ^ 24 + worst.toNat * 2 ^ 18) }))

/-! ### Error injection and scrubbing (R169, R266, R267) -/

/-- ERRINJ: a write with GO arms one injection; arrays 5 to 7 and kind 3 ignore GO (R267). -/
def execErrinj (val : Word) (s : State) : Result :=
  .next (if !regsOpen s then s
    else
      let fields := val &&& 0x7FF0FFFFFFFFFFFF
      let go := val.getLsbD 63 && (val.extractLsb' 60 3).toNat < 5 && val.extractLsb' 58 2 ≠ 3
      { s with bar := { s.bar with errinj := if go then fields ||| ((1 : Word) <<< 63) else fields, injected := none } })

/-- CIM_SCRUB: a row of a macro is checked (R169, R266). -/
def execCimScrub (core : Nat) (q : BitVec 2) (row : BitVec 9) (s : State) : Result :=
  .next (match cimInjected s core with
    | some (mac, r) =>
      if mac ≠ q.toNat || r ≠ row.toNat then s
      else
        let rid := (s.core core).owner.getD 0
        cimError s core mac r (s.domain rid).isSome rid 0 none
    | none => s)

/-! ### Arming a Ringmaster entry (R71 to R73) -/

/-- The live region that an entry's record names, as read under that region's PASID; or an address to translate first. -/
def armedRegion (s : State) (d : BitVec 2) (a : Word) (l : List Region) : Option (Except (BitVec 20) (Region × Trec)) :=
  match l with
  | [] => none
  | r :: l =>
    match watchSpot s d r.pasid a with
    | none => (armedRegion s d a l).or (some (.error r.pasid))
    | some _ =>
      match rmRecord s d r a with
      | some v => if (parseTrec v).trid = r.rid then some (.ok (r, parseTrec v)) else armedRegion s d a l
      | none => armedRegion s d a l

/-- The entry's own fields pass at arming (R71, R72). -/
def armFields (x : RmEntry) (ctl : Byte) : Bool :=
  (x.period = 0 || 16000 ≤ x.period.toNat) && 1 ≤ x.vcnn.toNat && x.vcnn.toNat ≤ 768 && ctl &&& 0x78 = 0 &&
    x.trec.toNat % 64 = 0 && x.trec.toNat < 2 ^ 47

/-- The region passes at arming: a live timed one, single tasks, and every core of the set on the die (R72). -/
def armRegionOk (d : BitVec 2) (x : RmEntry) (r : Region) (t : Trec) : Bool :=
  r.timed && r.phase = .live && t.gsize = 0 && (rmCores r x).length = x.vcnn.toNat &&
    (rmCores r x).all (fun n => dieOf n = d.toNat)

/-- The page of an entry's record, where it is translated and may not be read, is recorded, under RTAG 0 (R274; DESIGN CHOICE, unsafe: the
region that the record would name is not known, and R274 gives no RTAG; log entry 69). -/
def armFault (s : State) (d : BitVec 2) (a : Word) : State :=
  if s.regions.any (fun r => (watchSpot s d r.pasid a).isSome && (rmRecord s d r a).isNone) then
    recordDie s d 0x11 0 (faultForm a false false 0)
  else s

/-- No arming of an entry waits any longer for its record's page. -/
def cancelArm (s : State) (d : BitVec 2) (e : BitVec 8) : State :=
  { s with sched := { s.sched with agenda := s.sched.agenda.filter (fun x =>
      match x.2 with | .ringmasterArm d' e' _ => !(d' = d && e' = e) | _ => true) } }

/-- The reads of an entry's record under the PASIDs of some regions, up to that of the region it names: their soft errors (R72,
R267). -/
def armReads (s : State) (d : BitVec 2) (a : Word) (l : List Region) : State :=
  match l with
  | [] => s
  | r :: l =>
    match watchSpot s d r.pasid a, rmRecord s d r a with
    | some e, some v =>
      let s := noteRead s (.die d) 0 none (xlateKey e.t a.toNat) 64
      if (parseTrec v).trid = r.rid then s else armReads s d a l
    | _, _ => armReads s d a l

/-- The outcome of an arming. -/
def armEntry (s : State) (d : BitVec 2) (e : BitVec 8) (ctl : Byte) : State :=
  let x := { rmGet s d e with stat := 0, ctl := ctl &&& 0x7F, n := 0 }
  let s := if armFields x ctl then armReads s d x.trec s.regions else s
  let bad : State := rmMod s d e (fun _ => { x with stat := 1 })
  if !armFields x ctl then bad
  else
    match armedRegion s d x.trec s.regions with
    | none => armFault bad d x.trec
    | some (.error pasid) =>
      (askXlate s (d.toNat * 768) pasid x.trec.toNat).schedule (s.sched.clock + 1) (.ringmasterArm d e ctl)
    | some (.ok (r, t)) =>
      if armRegionOk d x r t then rmMod s d e (fun _ => armStart s { x with ctl := ctl ||| 0x80, rid := r.rid }) else bad

/-- RINGMASTER_ARM: a write of CTL with V = 1; of an armed entry it is ignored (R72). -/
def execRingmasterArm (d : BitVec 2) (e : BitVec 8) (ctl : Byte) (s : State) : Result :=
  .next (if !regsOpen s || (rmGet s d e).ctl.getLsbD 7 then s else armEntry (cancelArm s d e) d e ctl)

/-- RINGMASTER_DISARM: a write of CTL with V = 0, which also ends an arming that waits for its record's page (R72). -/
def execRingmasterDisarm (d : BitVec 2) (e : BitVec 8) (ctl : Byte) (s : State) : Result :=
  .next (if regsOpen s then rmMod (cancelArm s d e) d e (fun x => { x with ctl := ctl &&& 0x7F }) else s)

end Sys2Proof.Machine
end

