-- ==== Sys2Proof/Machine/HostPort.lean ====
section
/-! DEFINITION. The host port: register reads and writes, bindings and the peer table, ATS and PRI, BAR 2, host AtomicOps,
manifests and measurements (R20, R71, R187 to R199, R221, R261, R267, R306 to R322, R465). -/

namespace Sys2Proof.Machine

/-! ### Bindings and tables (R198, R312, R319) -/

/-- TTBASE_WRITE: ignored while a region with a non-empty tensor range is live (R198). -/
def execTtbaseWrite (d : BitVec 2) (val : Word) (s : State) : Result :=
  .next (if !regsOpen s || s.regions.any (fun r => r.tcount ≠ 0) then s
    else s.modDie d (fun e => { e with ttbase := val &&& 0x8000003FFFFC0000 }))

/-- TENBIND_WRITE: ignored while the entry's tenant has a live region; a second valid entry of a tenant has V = 0 (R312). An entry
with V = 0 is not locked, whatever its TENANT field holds (DESIGN CHOICE, unsafe: R312 does not say; log entry 47). -/
def execTenbindWrite (i : BitVec 6) (val : Word) (s : State) : Result :=
  .next (let old : Word := s.bar.tenbind[i.toNat]'(i.isLt)
    if !regsOpen s || (old.getLsbD 63 && s.regions.any (fun r => r.tenant = old.extractLsb' 0 16)) then s
    else
      let w := val &&& 0x800FFFFF0000FFFF
      let twice := (s.bar.tenbind.toList.zipIdx).any (fun e =>
        e.2 ≠ i.toNat && e.1.getLsbD 63 && e.1.extractLsb' 0 16 = w.extractLsb' 0 16)
      let w := if twice then w &&& ~~~((1 : Word) <<< 63) else w
      { s with bar := { s.bar with tenbind := s.bar.tenbind.set i.toNat w i.isLt } })

/-- PEER_TABLE_WRITE: SELF with another package's id, or in a second entry, leaves V = 0; packets that are held for a link may
depart by the new entry, and later ones take its link whatever link their routes had (R319). -/
def execPeerTableWrite (i : BitVec 12) (val : Word) (s : State) : Result :=
  .next (if !regsOpen s then s
    else
      let w := val &&& 0xCFFF000000003FFF
      let other := s.bar.peers.any (fun p => p.1 ≠ i.toNat && p.2.getLsbD 63 && p.2.getLsbD 62)
      let bad : Bool := w.getLsbD 62 && (w.extractLsb' 0 14 ≠ Config.straps || other)
      let w := if bad then w &&& ~~~((1 : Word) <<< 63) else w
      relink { s with
        bar := { s.bar with peers := assocSet s.bar.peers i.toNat w }
        routes := s.routes.filter (fun r => r.peer ≠ i) })

/-! ### The registers of BAR 0 (R310, R465) -/

/-- A byte of a Ringmaster entry (R71). -/
def rmByte (x : RmEntry) (o : Nat) : Byte :=
  (leBytes x.start.toNat 8 ++ leBytes x.period.toNat 8 ++ leBytes x.trec.toNat 8 ++ leBytes x.vcn0.toNat 2 ++
    leBytes x.vcnn.toNat 2 ++ [x.ctl, x.stat, 0, 0]).getD o 0

/-- Bytes 0 to 27 of an entry, with some replaced (R465). -/
def rmPatch (x : RmEntry) (o : Nat) (l : List Byte) : RmEntry :=
  let b (i : Nat) : Byte := if o ≤ i && i < o + l.length then l.getD (i - o) 0 else rmByte x i
  let f (i n : Nat) : Nat := leValue ((List.range n).map (fun j => b (i + j)))
  { x with start := BitVec.ofNat 64 (f 0 8), period := BitVec.ofNat 64 (f 8 8), trec := BitVec.ofNat 64 (f 16 8)
           vcn0 := BitVec.ofNat 16 (f 24 2), vcnn := BitVec.ofNat 16 (f 26 2) }

/-- A host write into the Ringmaster table: bytes 0 to 27 of a disarmed entry, then CTL (R72, R465). -/
def writeRm (s : State) (off size : Nat) (val : Word) : State :=
  let o := off - 0x10000
  let d := BitVec.ofNat 2 (o / 0x2000)
  let e := BitVec.ofNat 8 (o % 0x2000 / 32)
  let at' := o % 32
  let l := leBytes val.toNat size
  let s := if (rmGet s d e).ctl.getLsbD 7 then s else rmMod s d e (fun x => rmPatch x at' l)
  if at' ≤ 28 && 28 < at' + size then
    let ctl := l.getD (28 - at') 0
    match (if ctl.getLsbD 7 then execRingmasterArm d e ctl s else execRingmasterDisarm d e ctl s) with
    | .next s => s
    | _ => s
  else s

/-- The state of a step that always answers one. -/
def afterStep (r : Result) (s : State) : State := match r with | .next t => t | _ => s

/-- REGOP by its OP; another is BADOP (R261). -/
def writeRegop (s : State) (f : Fn) (val : Word) : State :=
  match (val.extractLsb' 0 4).toNat with
  | 1 => afterStep (execPark f val s) s
  | 2 => afterStep (execResume f val s) s
  | 3 => afterStep (execEvict f val s) s
  | 4 => afterStep (execRestore f val s) s
  | 5 => afterStep (execTeardown f val s) s
  | _ =>
    if !accepting s || (s.fnRegs f).regopst.getLsbD 9 then s.modFn f (fun x => { x with regopst := x.regopst ||| 0x100 })
    else opStatus s f (val.extractLsb' 48 16) 0x20

/-- A register that every function has (R20, R254, R260, R261, R305, R314). THRINT with RID 0 names no region: it only
clears DROP. -/
def writeFnReg (s : State) (f : Fn) (off : Nat) (val : Word) : State :=
  let w1c (m : Word) (old : Word) : Word := old &&& ~~~(val &&& m)
  if off = 0x10 then s.modFn f (fun x => { x with evbase := val &&& 0x0000FFFFFFFFF001 })
  else if off = 0x18 then
    s.modFn f (fun x => { x with evidx := (w1c 0x10000 x.evidx &&& 0x100FF) ||| (val &&& 0xFF00) })
  else if off = 0x1000 then afterStep (execRegstart f val s) s
  else if off = 0x1008 then s.modFn f (fun x => { x with regstat := w1c 0x100 x.regstat })
  else if off = 0x1010 then s.modFn f (fun x => { x with hvec := val &&& 0x0000FFFFFFFFFFE0 })
  else if off = 0x1018 then writeRegop s f val
  else if off = 0x1020 then s.modFn f (fun x => { x with regopst := w1c 0x100 x.regopst })
  else if off = 0x1028 then
    let s := if val.getLsbD 16 then s.modFn f (fun x => { x with thrdrop := false }) else s
    if val.extractLsb' 48 16 = 0 then s else afterStep (execThrint f val s) s
  else if off = 0x1030 then afterStep (execManreq f val s) s
  else if off = 0x1038 then s.modFn f (fun x => { x with manstat := w1c 0x100 x.manstat })
  else s

/-- A register of the physical function alone. -/
def writePfReg (s : State) (off : Nat) (val : Word) : State :=
  if off = 0x8 then
    let old := s.bar.hostcap
    let v : BitVec 2 := (val.setWidth 2 &&& 1) ||| (old &&& 2 &&& ~~~(val.setWidth 2))
    { s with bar := { s.bar with hostcap := v } }
  else if 0x100 ≤ off && off < 0x300 then afterStep (execTenbindWrite (BitVec.ofNat 6 ((off - 0x100) / 8)) val s) s
  else if 0x300 ≤ off && off < 0x380 then
    { s with bar := { s.bar with vfbind := s.bar.vfbind.setIfInBounds ((off - 0x300) / 8) (val &&& 0x8000FFFF0000FFFF) } }
  else if 0x800 ≤ off && off < 0x8C0 then
    if off % 16 = 0 then writeLinkctl s (BitVec.ofNat 4 ((off - 0x800) / 16)) val else s
  else if off = 0x900 then { s with bar := { s.bar with pwrlimit := val.extractLsb' 32 16 } }
  else if off = 0xB00 then
    afterStep (if val.extractLsb' 0 2 = 1 then execDebugStop val s
      else if val.extractLsb' 0 2 = 2 then execDebugRelease val s else .next (dbgDrop s)) s
  else if off = 0xB08 then { s with bar := { s.bar with dbgstat := s.bar.dbgstat &&& ~~~(val &&& 0x10000) } }
  else if 0xC00 ≤ off && off < 0xC20 then afterStep (execTtbaseWrite (BitVec.ofNat 2 ((off - 0xC00) / 8)) val s) s
  else if off = 0x3000 then afterStep (execErrinj val s) s
  else if 0x20000 ≤ off && off < 0x28000 then
    afterStep (execPeerTableWrite (BitVec.ofNat 12 ((off - 0x20000) / 8)) val s) s
  else s

/-- Is an offset one of the registers that every function has? -/
def fnRegister (off : Nat) : Bool := off = 0x10 || off = 0x18 || (0x1000 ≤ off && off < 0x1040)

/-- REGISTER_WRITE: a host write to BAR 0: a whole aligned register, or aligned bytes of the Ringmaster table; anything
else is discarded (R310, R316, R465). -/
def execRegisterWrite (fn : Fn) (off size : Nat) (val : Word) (s : State) : Result :=
  .next (if !regsOpen s || off % size ≠ 0 then s
    else if 0x10000 ≤ off && off < 0x18000 then
      if fn = .pf && (size = 1 || size = 2 || size = 4 || size = 8) then writeRm s off size val else s
    else if size ≠ 8 then s
    else if fnRegister off then writeFnReg s fn off val
    else if fn = .pf then writePfReg s off val
    else s)

/-- DEVSTAT (R316). -/
def devstat (s : State) : Word :=
  let up := (List.range 12).foldl (fun a k => a + (match s.links[k]? with | some l => if l.stat.getLsbD 1 then 2 ^ k else 0 | none => 0)) 0
  BitVec.ofNat 64 (Config.straps.toNat * 2 ^ 32 + up * 2 ^ 20 + s.bar.stage * 2 ^ 12 + s.bar.failst.toNat * 2 ^ 8 +
    (if s.bar.fatal then 4 else 0) + (if s.bar.ptplock then 2 else 0) + (if s.bar.ready then 1 else 0))

/-- A register of a function's own as read; BUSY reads 1 until the device is ready (R316). -/
def readFnReg (s : State) (f : Fn) (off : Nat) : Word :=
  let x := s.fnRegs f
  let busy : Word := if s.bar.ready then 0 else 0x200
  if off = 0x10 then x.evbase
  else if off = 0x18 then x.evidx
  else if off = 0x1008 then x.regstat ||| busy
  else if off = 0x1010 then x.hvec
  else if off = 0x1020 then x.regopst ||| busy
  else if off = 0x1028 then (if x.thrdrop then 0x10000 else 0)
  else if off = 0x1038 then x.manstat
  else 0

/-- A double word of an error-log ring (R267). -/
def errlogWord (s : State) (off : Nat) : Word :=
  let o := off - 0x4000
  match (s.die (BitVec.ofNat 2 (o / 0x2000))).errlog.find? (fun e => e.1 = o % 0x2000 / 32) with
  | none => 0
  | some (_, e) =>
    match o % 32 / 8 with | 0 => e.time | 1 => e.addr | 2 => e.info.setWidth 64 | _ => (e.info >>> 64).setWidth 64

/-- A register of the physical function as read. -/
def readPfReg (s : State) (off : Nat) : Word :=
  if off = 0x8 then s.bar.hostcap.setWidth 64
  else if 0x100 ≤ off && off < 0x300 then (s.bar.tenbind[(off - 0x100) / 8]?).getD 0
  else if 0x300 ≤ off && off < 0x380 then (s.bar.vfbind[(off - 0x300) / 8]?).getD 0
  else if 0x800 ≤ off && off < 0x8C0 then
    match s.links[(off - 0x800) / 16]? with
    | some l => if off % 16 = 0 then l.ctl.setWidth 64 else l.stat
    | none => 0
  else if off = 0x900 then s.bar.pwrlimit.setWidth 64 <<< 32
  else if off = 0x908 then s.bar.pwrstat ||| BitVec.ofNat 64 (throttled s)
  else if 0xA00 ≤ off && off < 0xA20 then (s.die (BitVec.ofNat 2 ((off - 0xA00) / 8))).agemon
  else if off = 0xB08 then s.bar.dbgstat
  else if off = 0xB10 then s.bar.dbgpc
  else if off = 0xB18 then s.bar.dbgtick
  else if 0xC00 ≤ off && off < 0xC20 then (s.die (BitVec.ofNat 2 ((off - 0xC00) / 8))).ttbase
  else if off = 0x3000 then s.bar.errinj
  else if 0x3100 ≤ off && off < 0x3120 then (s.die (BitVec.ofNat 2 ((off - 0x3100) / 8))).erridx.setWidth 64
  else if 0x4000 ≤ off && off < 0xC000 then errlogWord s off
  else if 0x10000 ≤ off && off < 0x18000 then
    let x := rmGet s (BitVec.ofNat 2 ((off - 0x10000) / 0x2000)) (BitVec.ofNat 8 (off % 0x2000 / 32))
    BitVec.ofNat 64 (leValue ((List.range 8).map (fun i => rmByte x (off % 32 + i))))
  else if 0x20000 ≤ off && off < 0x28000 then assocGet s.bar.peers ((off - 0x20000) / 8) 0
  else 0

/-- A double word of BAR 0 as a function reads it; a read changes nothing (R310, R315, R465). -/
def barRead (s : State) (f : Fn) (off : Nat) : Word :=
  if off = 0 then devstat s
  else if s.bar.failst ≠ 0xF then 0
  else if fnRegister off then readFnReg s f off
  else match f with | .pf => readPfReg s off | .vf _ => 0

/-- A host read of 1, 2, 4 or 8 bytes of BAR 0, naturally aligned: the addressed bytes (R465). -/
def hostRead (s : State) (f : Fn) (off size : Nat) : Word :=
  BitVec.ofNat 64 ((barRead s f (off / 8 * 8)).toNat / 2 ^ (8 * (off % 8)) % 2 ^ (8 * size))

/-! ### BAR 2 (R187, R221, R311) -/

/-- Is a BAR 2 offset open to the host? -/
def barOpen (off : Nat) : Bool := off < 0x3FC0000000

/-- HOST_BAR2_ACCESS: a read or a write of up to 8 bytes; the reserved area reads zero and keeps no write (R311). -/
def execHostBar2Access (write : Bool) (off size : Nat) (val : Word) (s : State) : Result :=
  .next (if !regsOpen s then s
    else if write then
      let l := (leBytes val.toNat (min size 8)).zipIdx
      storeDev s ((l.filter (fun e => barOpen (off + e.2))).map (fun e => (keyStack (off + e.2), e.1, 0xFF)))
    else
      let s := if barOpen off then devRead s (keyStack off) (min size 8) else s
      let l := (List.range (min size 8)).map (fun i => if barOpen (off + i) then Memory.read s.mem (keyStack (off + i)) else 0)
      s.emit (.read (BitVec.ofNat 64 (leValue l))))

/-- HOST_ATOMICOP: FetchAdd, Swap or CAS of the host at the home slice; the old value is returned (R221, R309). -/
def execHostAtomicop (off : Nat) (op : Aop) (wide : Bool) (opnd swap : Word) (s : State) : Result :=
  .next (if !regsOpen s || !Aop.onHost op then s
    else if !barOpen off then s.emit (.read 0)
    else
      let s := devRead s (keyStack off) (if wide then 8 else 4)
      let (old, l) := atomAct s op wide (keyStack off) opnd swap
      (storeDev s l).emit (.read (BitVec.ofNat 64 old)))

/-! ### Translations (R187 to R196, R313) -/

/-- Fill a core's TLB of 64 entries, the oldest leaving (log entry 12). -/
def fillCoreTlb (l : List TlbEntry) (e : TlbEntry) : List TlbEntry := lastN 64 (l ++ [e])

/-- Fill a die's TLB: 1,024 sets of eight ways by 4 KiB page, the oldest of the set leaving (log entry 12). -/
def fillDieTlb (l : List TlbEntry) (e : TlbEntry) : List TlbEntry :=
  let set (x : TlbEntry) : Nat := x.t.va / 4096 % 1024
  let peers := l.filter (fun x => set x = set e)
  match (if 8 ≤ peers.length then peers.head? else none) with
  | some old => l.erase old ++ [e]
  | none => l ++ [e]

/-- The records of a die that asked for a translation are evaluated again; no other is (R31, R32). -/
def retryRecords (s : State) (d : BitVec 2) : State :=
  ((s.die d).disp.filter (fun e => e.asking && e.ready.isNone && e.saved.isNone && e.waiting.isNone)).foldl
    (fun s e => evaluateEntry s d e) s

/-- The starts that wait for a translation are processed again (R21). -/
def retryStarts (s : State) : State :=
  s.bar.fns.foldl (fun s e =>
    match e.2.startWait with
    | some a => if e.2.startReq.isNone then processStart s e.1 a true else s
    | none => s) s

/-- The counters that await their page are poisoned, the records that name one are discarded, and the ends that waited for them are
completed (R265). -/
def retryPoison (s : State) : State :=
  if s.toPoison.isEmpty then s
  else settleEnds <| wakeAll <| discardPoisoned (s.toPoison.foldl (fun s c => poisonCounter s c.1 c.2) { s with toPoison := [] })

/-- Does a translation name an address of 2^lg bytes under a PASID? -/
def xlateMeets (pasid : BitVec 20) (va lg : Nat) (x : Xlate) : Bool :=
  x.pasid = pasid && x.va / 2 ^ x.lg * 2 ^ x.lg < va / 2 ^ lg * 2 ^ lg + 2 ^ lg &&
    va / 2 ^ lg * 2 ^ lg < x.va / 2 ^ x.lg * 2 ^ x.lg + 2 ^ x.lg

/-- A translation is known until another of its addresses comes or the host invalidates it (R187, R195). -/
def learn (s : State) (x : Xlate) : State :=
  { s with known := s.known.filter (fun y => !xlateMeets x.pasid x.va x.lg y) ++ [x] }

/-- TRANSLATION_COMPLETION: a walk's answer fills the TLBs of its core and die, with the capability bit as it stands (R187,
R188, R191, R313). -/
def execTranslationCompletion (d : BitVec 2) (core : Nat) (x : Xlate) (s : State) : Result :=
  .next (let answers (w : BitVec 20 × Nat) : Bool := covers x w.1 w.2
    if !(s.die d).walks.any answers then s
    else
      let e : TlbEntry := ⟨x, s.bar.hostcap.getLsbD 0⟩
      let s := (learn s x).modDie d (fun y => { y with tlb := fillDieTlb y.tlb e, walks := y.walks.filter (fun w => !answers w) })
      let s := if dieOf core = d.toNat then s.modCache core (fun c => { c with tlb := fillCoreTlb c.tlb e }) else s
      retryPoison (resumeRestores (retryStarts (retryRecords s d))))

/-- The lines of a list that a page does not hold. -/
def keepLines (l : List Line) (inPage : Nat → Bool) : List Line := l.filter (fun x => !inPage x.key)

/-- ATS_INVALIDATE: the translations of 2^lg bytes under a PASID leave every TLB, and the cached lines of their physical
pages leave every read cache and bundle buffer, whether or not a TLB still held the translation (R195). -/
def execAtsInvalidate (pasid : BitVec 20) (va lg : Nat) (s : State) : Result :=
  .next (let hit := xlateMeets pasid va lg
    let gone := s.known.filter hit ++ ((s.dies.toList.map (fun d => (d.tlb.map (fun e => e.t)).filter hit)).flatten ++
      (s.cores.map (fun c => (c.2.cache.tlb.map (fun e => e.t)).filter hit)).flatten)
    let inPage (k : Nat) : Bool := gone.any (fun x =>
      let base := xlateKey x (x.va / 2 ^ x.lg * 2 ^ x.lg)
      base ≤ k && k < base + 2 ^ x.lg)
    let s := { s with
      known := s.known.filter (fun x => !hit x)
      cores := s.cores.map (fun (c : Nat × Core) => (c.1, { c.2 with cache := { c.2.cache with
        tlb := c.2.cache.tlb.filter (fun e => !hit e.t), rc := keepLines c.2.cache.rc inPage, bb := keepLines c.2.cache.bb inPage } }))
      dies := s.dies.map (fun (d : Die) => { d with tlb := d.tlb.filter (fun e => !hit e.t) }) }
    s.emit (.invalidated pasid va))

/-! ### Page requests (R192 to R194, R229) -/

/-- Remove a page request; those that may now go to the host do (R193). -/
def closeRequest (s : State) (d : BitVec 2) (req : Nat) : State :=
  sendReqs (s.modDie d (fun e => { e with reqs := e.reqs.filter (fun r => r.id ≠ req) })) d

/-- The response of a thread that kept its slot. -/
def answerThread (ok : Bool) (req : Nat) (t : Thread) : Thread :=
  if t.life.faulted ≠ some req then t
  else
    { t with
      life := { t.life with faulted := none, saving := none }
      reports := if ok then t.reports else t.reports ++ [.xlate (BitVec.ofNat 64 (t.life.saving.getD 0))] }

/-- The response of a saved thread: its record is ready, the last of its class (R192). -/
def answerSaved (s : State) (ok : Bool) (e : Entry) (id : Nat) : Entry :=
  { e with
    waiting := none, ready := some s.sched.clock, order := id
    saved := e.saved.map (fun t => if ok then t else
      { t with reports := t.reports ++ [.xlate (BitVec.ofNat 64 (t.life.saving.getD 0))] }) }

/-- The records of a die that waited for a request: saved threads are ready; others are evaluated, or a counter that cannot
be read is region-fatal for the region of its pool (R31, R192, R250). -/
def answerRecords (s : State) (d : BitVec 2) (req : Nat) (ok : Bool) : State :=
  ((s.die d).disp.filter (fun e => e.waiting = some req)).foldl (fun s e =>
    if e.saved.isSome then
      let (id, s) := s.newId
      modEntry s d e.id (fun e => answerSaved s ok e id)
    else if ok then evaluateEntry (modEntry s d e.id (fun e => { e with waiting := none })) d { e with waiting := none }
    else fatalUnit s d 0 (poolHolder s e.rid) cENGINE e.counter) s

/-- The address whose page an MXRUN at the head of a core's queue could not have: that of its tensor. -/
def runPage (s : State) (n : Nat) (h : EHead) : Word :=
  match headRun s n with
  | some (_, _, m, cfg) =>
    match checkMember s n ((n - gangBase s n) % ksOf (s.core n).eng.mxcfg) h m cfg with
    | some (_, .ask va _) => va
    | _ => 0
  | none => 0

/-- The failed request of a core's E instructions: a copy, or an MXRUN, is abandoned with XLATE (R194, R229). -/
def failEngine (s : State) (n req : Nat) : State :=
  let s := (s.core n).net.jobs.foldl (fun s j =>
    if j.head.asked ≠ some req then s
    else
      match j.kind with
      | .copy tag _ _ => afterStep (execEngineFailure n tag .page s) s
      | _ => s) s
  match (s.core n).eng.queue with
  | q :: _ =>
    if q.head.asked ≠ some req then s
    else
      let v := runPage s n q.head
      finishE (engineReport (popEngine s n) n q.head cXLATE v) q.head true
  | [] => s

/-- The starts that waited for a request (R21). -/
def answerStarts (s : State) (req : Nat) (ok : Bool) : State :=
  s.bar.fns.foldl (fun s e =>
    match e.2.startWait with
    | some a =>
      if e.2.startReq ≠ some req then s
      else if ok then processStart (s.modFn e.1 (fun x => { x with startReq := none })) e.1 a true
      else failStart s e.1 a
    | none => s) s

/-- PAGE_RESPONSE: the host's answer to a page request that it holds; a counter whose page cannot be had is not poisoned (R192 to R194,
R229, R265; DESIGN CHOICE, unsafe; log entry 39). -/
def execPageResponse (d : BitVec 2) (req : Nat) (ok : Bool) (s : State) : Result :=
  .next (match (s.die d).reqs.find? (fun r => r.sent && r.id = req) with
    | none => s
    | some q =>
      let s := closeRequest s d req
      let s := if ok then s else { s with toPoison := s.toPoison.filter (fun c => !(c.1 = q.pasid && c.2 / 4096 * 4096 = q.page)) }
      let s := { s with cores := s.cores.map (fun (c : Nat × Core) => (c.1, mapThreads (answerThread ok req) c.2)) }
      let s := answerStarts (answerRecords s d req ok) req ok
      let s := if ok then s else (s.cores.map (fun c => c.1)).foldl (fun s n => failEngine s n req) s
      let s := resumeRestores (mapAllHeads s (fun h => if h.asked = some req then { h with asked := none } else h))
      if s.toPoison.isEmpty then settleEnds s else retryPoison s)

/-! ### Host AtomicOps of the device (R313) -/

/-- The report of a host atomic that failed. -/
def failAtomic (s : State) (n : Nat) (t : Thread) (id : Nat) (va : Word) : State :=
  engineReport { s with bar := { s.bar with hostcap := s.bar.hostcap ||| 2 } } n (qnoHead t (slotFor s n t.tid) id) cATOMIC va

/-- Which lanes of a VATOM are carried out when host lanes of it fail: every lane of stack memory, the host lanes below the lowest
failed one, and some above it; that one is a free choice among its host lanes (R313). -/
def lanesDone (f : Nat) (l : List (Nat × BitVec 32)) : Nat × List Bool :=
  let hosts := ((l.zipIdx).filter (fun e => isHost e.1.1)).map (fun e => e.2)
  let low := hosts.getD (Config.pick f % hosts.length) 0
  (low, (l.zipIdx).map (fun e => !isHost e.1.1 || e.2 < low || (low < e.2 && Config.happens (f + e.2))))

/-- ATOMICOP_FAILED: a host AtomicOp of a queue entry had no effect: a returning ATOM gives zero, AFAIL is set, and the
thread takes ATOMIC_UNSUP; of a VATOM some host lanes failed, and only the pages of the others are marked (R303, R313). -/
def execAtomicopFailed (core _slot id : Nat) (s : State) : Result :=
  .next (match readyEntry s core id with
    | none => s
    | some (t, e) =>
      match e.kind with
      | .atomM _ _ key _ _ miss va =>
        if !isHost key then s
        else
          let s := match miss with | some m => modMiss s core m (fun m => { m with data := some 0 }) | none => s
          failAtomic (markPerformed s core t.tid id miss.isSome) core t id va
      | .vatomM op l vas =>
        if !l.any (fun e => isHost e.1) then s
        else
          let s := s.tickFresh
          let (low, done) := lanesDone s.sched.fresh l
          let s := runLanes s core core (slotFor s core t.tid) (some t.tid) op (((l.zip done).filter (fun e => e.2)).map (fun e => e.1))
          let s := { s with sched := { s.sched with fresh := s.sched.fresh + 16 } }
          let s := ((vas.zip done).filter (fun e => e.2)).foldl (fun s e => markPage s t.task.rid e.1) s
          failAtomic (markPerformed s core t.tid id false) core t id (vas.getD low 0)
      | _ => s)

/-! ### Manifests and measurements (R306 to R308) -/

/-- A signed copy of a manifest (R306). -/
def manifestBytes (s : State) (m : Manifest) : List Byte :=
  let len := 256 + 64 * m.recs.length + 96
  let head := [0x4B, 0x5A, 0x4D, 0x46, 0x01, 0x00, m.flags, 0x00] ++ leBytes len 8 ++ leBytes Config.serialDigest.toNat 48 ++
    leBytes m.id 8 ++ leBytes m.rid.toNat 2 ++ leBytes m.tenant.toNat 2 ++ leBytes m.recs.length 4 ++ leBytes m.tstart 8 ++
    leBytes s.gtime 8 ++ leBytes firmwareDigest.toNat 48 ++ leBytes m.cfg.toNat 48 ++ leBytes 0 64
  let all := head ++ m.recs.flatten
  all ++ beBytes (Config.sign (Config.sha384 all)).toNat 96

/-- MANIFEST_FETCH: offset 0 signs a fresh copy, from which later offsets are read (R307, R308, R315). -/
def execManifestFetch (fn : Fn) (manid : Word) (off : BitVec 32) (s : State) : Result :=
  .next (if !regsOpen s || off.toNat % 1024 ≠ 0 then s
    else
      match s.manifests.find? (fun m => m.id = manid.toNat) with
      | none => s.emit (.reply fn 0x30 [])
      | some m =>
        let mine : Bool := match fn with | .pf => true | .vf n => (vfBind s n).getLsbD 63 && (vfBind s n).setWidth 16 = m.tenant
        if !mine then s.emit (.reply fn 0x32 [])
        else
          let kept := s.vault.manviews.find? (fun e => e.1 = fn && e.2.1 = m.id)
          let l := match (if off = 0 then none else kept) with | some e => e.2.2 | none => manifestBytes s m
          let s := { s with vault := { s.vault with manviews := fnSet s.vault.manviews fn (m.id, l) } }
          s.emit (.reply fn 0x00 ((l.drop off.toNat).take 1024)))

/-- GET_MEASUREMENTS: one of the blocks 1 to 4 (R308). -/
def execGetMeasurements (fn : Fn) (block : BitVec 8) (s : State) : Result :=
  .next (if regsOpen s && 1 ≤ block.toNat && block.toNat ≤ 4 then s.emit (.reply fn 0x00 (Config.measurement block.toNat)) else s)

end Sys2Proof.Machine
end

