-- ==== Sys2Proof/Machine/Dispatch.lean ====
section
/-! DEFINITION. One arm per instruction: a direct call of its meaning. -/

namespace Sys2Proof.Machine

/-- The effect of one instruction: a syllable issued by the thread at `s.cur`, or a step of the device or the host. -/
def exec (i : Instr) (s : State) : Host.Outcome State Fault Refusal :=
  match i with
  | .nop pos => Sys2Proof.Machine.execNop pos s
  | .add cl d a b g => Sys2Proof.Machine.execAdd cl d a b g s
  | .addi cl d a imm g => Sys2Proof.Machine.execAddi cl d a imm g s
  | .sub cl d a b g => Sys2Proof.Machine.execSub cl d a b g s
  | .and cl d a b g => Sys2Proof.Machine.execAnd cl d a b g s
  | .andn cl d a b g => Sys2Proof.Machine.execAndn cl d a b g s
  | .andi cl d a imm g => Sys2Proof.Machine.execAndi cl d a imm g s
  | .or cl d a b g => Sys2Proof.Machine.execOr cl d a b g s
  | .ori cl d a imm g => Sys2Proof.Machine.execOri cl d a imm g s
  | .xor cl d a b g => Sys2Proof.Machine.execXor cl d a b g s
  | .xori cl d a imm g => Sys2Proof.Machine.execXori cl d a imm g s
  | .sll cl d a b g => Sys2Proof.Machine.execSll cl d a b g s
  | .srl cl d a b g => Sys2Proof.Machine.execSrl cl d a b g s
  | .sra cl d a b g => Sys2Proof.Machine.execSra cl d a b g s
  | .slli cl d a imm g => Sys2Proof.Machine.execSlli cl d a imm g s
  | .srli cl d a imm g => Sys2Proof.Machine.execSrli cl d a imm g s
  | .srai cl d a imm g => Sys2Proof.Machine.execSrai cl d a imm g s
  | .mul cl d a b g => Sys2Proof.Machine.execMul cl d a b g s
  | .mulh cl d a b g => Sys2Proof.Machine.execMulh cl d a b g s
  | .mulhu cl d a b g => Sys2Proof.Machine.execMulhu cl d a b g s
  | .muli cl d a imm g => Sys2Proof.Machine.execMuli cl d a imm g s
  | .min cl d a b g => Sys2Proof.Machine.execMin cl d a b g s
  | .max cl d a b g => Sys2Proof.Machine.execMax cl d a b g s
  | .minu cl d a b g => Sys2Proof.Machine.execMinu cl d a b g s
  | .maxu cl d a b g => Sys2Proof.Machine.execMaxu cl d a b g s
  | .popc cl d a g => Sys2Proof.Machine.execPopc cl d a g s
  | .clz cl d a g => Sys2Proof.Machine.execClz cl d a g s
  | .ctz cl d a g => Sys2Proof.Machine.execCtz cl d a g s
  | .brev cl d a g => Sys2Proof.Machine.execBrev cl d a g s
  | .sextb cl d a g => Sys2Proof.Machine.execSextb cl d a g s
  | .sexth cl d a g => Sys2Proof.Machine.execSexth cl d a g s
  | .sextw cl d a g => Sys2Proof.Machine.execSextw cl d a g s
  | .zextw cl d a g => Sys2Proof.Machine.execZextw cl d a g s
  | .div cl d a b g => Sys2Proof.Machine.execDiv cl d a b g s
  | .divu cl d a b g => Sys2Proof.Machine.execDivu cl d a b g s
  | .rem cl d a b g => Sys2Proof.Machine.execRem cl d a b g s
  | .remu cl d a b g => Sys2Proof.Machine.execRemu cl d a b g s
  | .cmp cc cl pd a b g => Sys2Proof.Machine.execCmp cc cl pd a b g s
  | .cmpiEq cl pd a imm g => Sys2Proof.Machine.execCmpiEq cl pd a imm g s
  | .cmpiLt cl pd a imm g => Sys2Proof.Machine.execCmpiLt cl pd a imm g s
  | .cmpiLtu cl pd a imm g => Sys2Proof.Machine.execCmpiLtu cl pd a imm g s
  | .fadd cl d a b g => Sys2Proof.Machine.execFadd cl d a b g s
  | .fsub cl d a b g => Sys2Proof.Machine.execFsub cl d a b g s
  | .fmul cl d a b g => Sys2Proof.Machine.execFmul cl d a b g s
  | .ffma cl d a b g => Sys2Proof.Machine.execFfma cl d a b g s
  | .ffms cl d a b g => Sys2Proof.Machine.execFfms cl d a b g s
  | .fmin cl d a b g => Sys2Proof.Machine.execFmin cl d a b g s
  | .fmax cl d a b g => Sys2Proof.Machine.execFmax cl d a b g s
  | .fabs cl d a g => Sys2Proof.Machine.execFabs cl d a g s
  | .fneg cl d a g => Sys2Proof.Machine.execFneg cl d a g s
  | .fdiv cl d a b g => Sys2Proof.Machine.execFdiv cl d a b g s
  | .fsqrt cl d a g => Sys2Proof.Machine.execFsqrt cl d a g s
  | .frsq cl d a g => Sys2Proof.Machine.execFrsq cl d a g s
  | .fclass cl d a g => Sys2Proof.Machine.execFclass cl d a g s
  | .fcvtFi cl d a g => Sys2Proof.Machine.execFcvtFi cl d a g s
  | .fcvtFu cl d a g => Sys2Proof.Machine.execFcvtFu cl d a g s
  | .fcvtIf cl d a g => Sys2Proof.Machine.execFcvtIf cl d a g s
  | .fcvtIfz cl d a g => Sys2Proof.Machine.execFcvtIfz cl d a g s
  | .fcmp cc cl pd a b g => Sys2Proof.Machine.execFcmp cc cl pd a b g s
  | .xmov cl d a g => Sys2Proof.Machine.execXmov cl d a g s
  | .sel cl d pf a b g => Sys2Proof.Machine.execSel cl d pf a b g s
  | .movi cl d imm g => Sys2Proof.Machine.execMovi cl d imm g s
  | .shori cl d imm g => Sys2Proof.Machine.execShori cl d imm g s
  | .vadd et d a b g => Sys2Proof.Machine.execVadd et d a b g s
  | .vsub et d a b g => Sys2Proof.Machine.execVsub et d a b g s
  | .vmul et d a b g => Sys2Proof.Machine.execVmul et d a b g s
  | .vmulh et d a b g => Sys2Proof.Machine.execVmulh et d a b g s
  | .vmac et d a b g => Sys2Proof.Machine.execVmac et d a b g s
  | .vmin et d a b g => Sys2Proof.Machine.execVmin et d a b g s
  | .vmax et d a b g => Sys2Proof.Machine.execVmax et d a b g s
  | .vabs et d a g => Sys2Proof.Machine.execVabs et d a g s
  | .vshl et d a b g => Sys2Proof.Machine.execVshl et d a b g s
  | .vshr et d a b g => Sys2Proof.Machine.execVshr et d a b g s
  | .vrshr et d a b g => Sys2Proof.Machine.execVrshr et d a b g s
  | .vand et d a b g => Sys2Proof.Machine.execVand et d a b g s
  | .vor et d a b g => Sys2Proof.Machine.execVor et d a b g s
  | .vxor et d a b g => Sys2Proof.Machine.execVxor et d a b g s
  | .vdot4 d a b g => Sys2Proof.Machine.execVdot4 d a b g s
  | .vfadd et d a b g => Sys2Proof.Machine.execVfadd et d a b g s
  | .vfsub et d a b g => Sys2Proof.Machine.execVfsub et d a b g s
  | .vfmul et d a b g => Sys2Proof.Machine.execVfmul et d a b g s
  | .vffma et d a b g => Sys2Proof.Machine.execVffma et d a b g s
  | .vfmin et d a b g => Sys2Proof.Machine.execVfmin et d a b g s
  | .vfmax et d a b g => Sys2Proof.Machine.execVfmax et d a b g s
  | .vfabs et d a g => Sys2Proof.Machine.execVfabs et d a g s
  | .vfneg et d a g => Sys2Proof.Machine.execVfneg et d a g s
  | .vfrcp et d a g => Sys2Proof.Machine.execVfrcp et d a g s
  | .vfrsq et d a g => Sys2Proof.Machine.execVfrsq et d a g s
  | .vadds et d a b g => Sys2Proof.Machine.execVadds et d a b g s
  | .vmuls et d a b g => Sys2Proof.Machine.execVmuls et d a b g s
  | .vfmuls et d a b g => Sys2Proof.Machine.execVfmuls et d a b g s
  | .vffmas et d a b g => Sys2Proof.Machine.execVffmas et d a b g s
  | .vcmp cc et md a b g => Sys2Proof.Machine.execVcmp cc et md a b g s
  | .vsel et d mf a b g => Sys2Proof.Machine.execVsel et d mf a b g s
  | .vperm et d a b g => Sys2Proof.Machine.execVperm et d a b g s
  | .vslide et d a b g => Sys2Proof.Machine.execVslide et d a b g s
  | .vbcast et d a g => Sys2Proof.Machine.execVbcast et d a g s
  | .vext et d a b => Sys2Proof.Machine.execVext et d a b s
  | .vcvt st dt sat d a g => Sys2Proof.Machine.execVcvt st dt sat d a g s
  | .vquant et kt d a b g => Sys2Proof.Machine.execVquant et kt d a b g s
  | .vquantAuto et d a b g => Sys2Proof.Machine.execVquantAuto et d a b g s
  | .vdeq et hi d a g => Sys2Proof.Machine.execVdeq et hi d a g s
  | .vred op et d a g => Sys2Proof.Machine.execVred op et d a g s
  | .vrng d a b g => Sys2Proof.Machine.execVrng d a b g s
  | .vmovi d imm g => Sys2Proof.Machine.execVmovi d imm g s
  | .vpopc et d a g => Sys2Proof.Machine.execVpopc et d a g s
  | .mcnt d a => Sys2Proof.Machine.execMcnt d a s
  | .ldb cl d a sid off g => Sys2Proof.Machine.execLdb cl d a sid off g s
  | .ldbu cl d a sid off g => Sys2Proof.Machine.execLdbu cl d a sid off g s
  | .ldh cl d a sid off g => Sys2Proof.Machine.execLdh cl d a sid off g s
  | .ldhu cl d a sid off g => Sys2Proof.Machine.execLdhu cl d a sid off g s
  | .ldw cl d a sid off g => Sys2Proof.Machine.execLdw cl d a sid off g s
  | .ldwu cl d a sid off g => Sys2Proof.Machine.execLdwu cl d a sid off g s
  | .ldd cl d a sid off g => Sys2Proof.Machine.execLdd cl d a sid off g s
  | .stb cl d a sid off g => Sys2Proof.Machine.execStb cl d a sid off g s
  | .sth cl d a sid off g => Sys2Proof.Machine.execSth cl d a sid off g s
  | .stw cl d a sid off g => Sys2Proof.Machine.execStw cl d a sid off g s
  | .std cl d a sid off g => Sys2Proof.Machine.execStd cl d a sid off g s
  | .vld d a sid off g => Sys2Proof.Machine.execVld d a sid off g s
  | .vst d a sid off g => Sys2Proof.Machine.execVst d a sid off g s
  | .vlds d a sid st g => Sys2Proof.Machine.execVlds d a sid st g s
  | .vsts d a sid st g => Sys2Proof.Machine.execVsts d a sid st g s
  | .vgath d a sid ix g => Sys2Proof.Machine.execVgath d a sid ix g s
  | .vscat d a sid ix g => Sys2Proof.Machine.execVscat d a sid ix g s
  | .ldg wd cl d a sid off g => Sys2Proof.Machine.execLdg wd cl d a sid off g s
  | .stg wd cl d a sid off g => Sys2Proof.Machine.execStg wd cl d a sid off g s
  | .vldg d a sid off g => Sys2Proof.Machine.execVldg d a sid off g s
  | .vstg d a sid off g => Sys2Proof.Machine.execVstg d a sid off g s
  | .ldacq cl d a sid off g => Sys2Proof.Machine.execLdacq cl d a sid off g s
  | .strel cl d a sid off g => Sys2Proof.Machine.execStrel cl d a sid off g s
  | .atom op acq rel wide cl d a sid g => Sys2Proof.Machine.execAtom op acq rel wide cl d a sid g s
  | .vatom op d a sid g => Sys2Proof.Machine.execVatom op d a sid g s
  | .fenceJoin mask g => Sys2Proof.Machine.execFenceJoin mask g s
  | .fenceLoop mask g => Sys2Proof.Machine.execFenceLoop mask g s
  | .fenceFull g => Sys2Proof.Machine.execFenceFull g s
  | .tld d a sid g => Sys2Proof.Machine.execTld d a sid g s
  | .tst d a sid g => Sys2Proof.Machine.execTst d a sid g s
  | .br off g => Sys2Proof.Machine.execBr off g s
  | .call off g => Sys2Proof.Machine.execCall off g s
  | .ret a g => Sys2Proof.Machine.execRet a g s
  | .brx a g => Sys2Proof.Machine.execBrx a g s
  | .wait imm g => Sys2Proof.Machine.execWait imm g s
  | .waitt pd a g => Sys2Proof.Machine.execWaitt pd a g s
  | .waita a b g => Sys2Proof.Machine.execWaita a b g s
  | .waitb a b g => Sys2Proof.Machine.execWaitb a b g s
  | .waitmb mb a g => Sys2Proof.Machine.execWaitmb mb a g s
  | .waitk mask g => Sys2Proof.Machine.execWaitk mask g s
  | .arrive a g => Sys2Proof.Machine.execArrive a g s
  | .plog op d a b g => Sys2Proof.Machine.execPlog op d a b g s
  | .mlog op d a b g => Sys2Proof.Machine.execMlog op d a b g s
  | .rdc d creg g => Sys2Proof.Machine.execRdc d creg g s
  | .wrc creg a g => Sys2Proof.Machine.execWrc creg a g s
  | .trap code g => Sys2Proof.Machine.execTrap code g s
  | .eret g => Sys2Proof.Machine.execEret g s
  | .exit g => Sys2Proof.Machine.execExit g s
  | .mark a tag g => Sys2Proof.Machine.execMark a tag g s
  | .time d g => Sys2Proof.Machine.execTime d g s
  | .seqadd a b g => Sys2Proof.Machine.execSeqadd a b g s
  | .seqwait pd a b g => Sys2Proof.Machine.execSeqwait pd a b g s
  | .gbar g => Sys2Proof.Machine.execGbar g s
  | .mxldb mask a k => Sys2Proof.Machine.execMxldb mask a k s
  | .mxrun set a b k => Sys2Proof.Machine.execMxrun set a b k s
  | .mxrd d a b k => Sys2Proof.Machine.execMxrd d a b k s
  | .mxflg d a k => Sys2Proof.Machine.execMxflg d a k s
  | .mxclr set k => Sys2Proof.Machine.execMxclr set k s
  | .cpy a k => Sys2Proof.Machine.execCpy a k s
  | .send a b k => Sys2Proof.Machine.execSend a b k s
  | .snld a k => Sys2Proof.Machine.execSnld a k s
  | .spawn a k => Sys2Proof.Machine.execSpawn a k s
  | .wmset ch a b k => Sys2Proof.Machine.execWmset ch a b k s
  | .regstart fn val => Sys2Proof.Machine.execRegstart fn val s
  | .park fn val => Sys2Proof.Machine.execPark fn val s
  | .parkDone rid => Sys2Proof.Machine.execParkDone rid s
  | .resume fn val => Sys2Proof.Machine.execResume fn val s
  | .evict fn val => Sys2Proof.Machine.execEvict fn val s
  | .evictDone rid => Sys2Proof.Machine.execEvictDone rid s
  | .restore fn val => Sys2Proof.Machine.execRestore fn val s
  | .teardown fn val => Sys2Proof.Machine.execTeardown fn val s
  | .thrint fn val => Sys2Proof.Machine.execThrint fn val s
  | .manreq fn val => Sys2Proof.Machine.execManreq fn val s
  | .manifestRangeHash rid => Sys2Proof.Machine.execManifestRangeHash rid s
  | .ttbaseWrite d val => Sys2Proof.Machine.execTtbaseWrite d val s
  | .tenbindWrite ix val => Sys2Proof.Machine.execTenbindWrite ix val s
  | .peerTableWrite ix val => Sys2Proof.Machine.execPeerTableWrite ix val s
  | .ringmasterArm d e ctl => Sys2Proof.Machine.execRingmasterArm d e ctl s
  | .ringmasterDisarm d e ctl => Sys2Proof.Machine.execRingmasterDisarm d e ctl s
  | .ringmasterLaunch d e => Sys2Proof.Machine.execRingmasterLaunch d e s
  | .retrain k val => Sys2Proof.Machine.execRetrain k val s
  | .linkEnable k val => Sys2Proof.Machine.execLinkEnable k val s
  | .linkDisable k val => Sys2Proof.Machine.execLinkDisable k val s
  | .linkErrorRetrain k => Sys2Proof.Machine.execLinkErrorRetrain k s
  | .linkTrainingDone k t => Sys2Proof.Machine.execLinkTrainingDone k t s
  | .linkTrainTimeout k => Sys2Proof.Machine.execLinkTrainTimeout k s
  | .debugStop val => Sys2Proof.Machine.execDebugStop val s
  | .debugStopDone core slot => Sys2Proof.Machine.execDebugStopDone core slot s
  | .debugRelease val => Sys2Proof.Machine.execDebugRelease val s
  | .errinj val => Sys2Proof.Machine.execErrinj val s
  | .registerWrite fn off size val => Sys2Proof.Machine.execRegisterWrite fn off size val s
  | .list fn voff => Sys2Proof.Machine.execList fn voff s
  | .fetch fn form view vid voff => Sys2Proof.Machine.execFetch fn form view vid voff s
  | .erase fn => Sys2Proof.Machine.execErase fn s
  | .manifestFetch fn manid off => Sys2Proof.Machine.execManifestFetch fn manid off s
  | .atsInvalidate pasid va lg => Sys2Proof.Machine.execAtsInvalidate pasid va lg s
  | .translationCompletion d core x => Sys2Proof.Machine.execTranslationCompletion d core x s
  | .pageResponse d req ok => Sys2Proof.Machine.execPageResponse d req ok s
  | .hostAtomicop off op wide opnd swap => Sys2Proof.Machine.execHostAtomicop off op wide opnd swap s
  | .hostBar2Access write off size val => Sys2Proof.Machine.execHostBar2Access write off size val s
  | .atomicopFailed core slot id => Sys2Proof.Machine.execAtomicopFailed core slot id s
  | .powerOn => Sys2Proof.Machine.execPowerOn s
  | .warmReset => Sys2Proof.Machine.execWarmReset s
  | .coldReset => Sys2Proof.Machine.execColdReset s
  | .bringupStageEnd ok => Sys2Proof.Machine.execBringupStageEnd ok s
  | .ptpLockTimeout => Sys2Proof.Machine.execPtpLockTimeout s
  | .ptpLockChange locked => Sys2Proof.Machine.execPtpLockChange locked s
  | .powerControl watts temp thr island mhz swallow => Sys2Proof.Machine.execPowerControl watts temp thr island mhz swallow s
  | .thermalThrottle temp => Sys2Proof.Machine.execThermalThrottle temp s
  | .ageingUpdate d eol conf worst => Sys2Proof.Machine.execAgeingUpdate d eol conf worst s
  | .cimScrub core q row => Sys2Proof.Machine.execCimScrub core q row s
  | .taskReady d id => Sys2Proof.Machine.execTaskReady d id s
  | .taskPlace d => Sys2Proof.Machine.execTaskPlace d s
  | .gangPlace d => Sys2Proof.Machine.execGangPlace d s
  | .gangPressing d => Sys2Proof.Machine.execGangPressing d s
  | .taskStart core slot => Sys2Proof.Machine.execTaskStart core slot s
  | .recordEnqueue d id => Sys2Proof.Machine.execRecordEnqueue d id s
  | .detAtomicBatch key => Sys2Proof.Machine.execDetAtomicBatch key s
  | .kernelBoundary rid => Sys2Proof.Machine.execKernelBoundary rid s
  | .pageDigestDone rid => Sys2Proof.Machine.execPageDigestDone rid s
  | .resultLands core slot => Sys2Proof.Machine.execResultLands core slot s
  | .loadLanding core id => Sys2Proof.Machine.execLoadLanding core id s
  | .holdRelease core slot => Sys2Proof.Machine.execHoldRelease core slot s
  | .bundleLineFill core line => Sys2Proof.Machine.execBundleLineFill core line s
  | .waitComplete core slot => Sys2Proof.Machine.execWaitComplete core slot s
  | .gbarRelease core slot => Sys2Proof.Machine.execGbarRelease core slot s
  | .domainFreeze rid => Sys2Proof.Machine.execDomainFreeze rid s
  | .domainResume rid => Sys2Proof.Machine.execDomainResume rid s
  | .trapTaken core slot => Sys2Proof.Machine.execTrapTaken core slot s
  | .contextSave core slot => Sys2Proof.Machine.execContextSave core slot s
  | .orderQueuePerform core slot id => Sys2Proof.Machine.execOrderQueuePerform core slot id s
  | .seqaddPerform core slot id => Sys2Proof.Machine.execSeqaddPerform core slot id s
  | .atomicExecute core slot id => Sys2Proof.Machine.execAtomicExecute core slot id s
  | .remoteLoadServe id => Sys2Proof.Machine.execRemoteLoadServe id s
  | .remoteStoreLanding id => Sys2Proof.Machine.execRemoteStoreLanding id s
  | .barrierArrival id => Sys2Proof.Machine.execBarrierArrival id s
  | .ackReturn id => Sys2Proof.Machine.execAckReturn id s
  | .destAbsentTimeout id => Sys2Proof.Machine.execDestAbsentTimeout id s
  | .copyLanding core tag => Sys2Proof.Machine.execCopyLanding core tag s
  | .copyComplete core tag => Sys2Proof.Machine.execCopyComplete core tag s
  | .engineFailure core tag f => Sys2Proof.Machine.execEngineFailure core tag f s
  | .wmsetApply core tag => Sys2Proof.Machine.execWmsetApply core tag s
  | .qnoDeparture core slot => Sys2Proof.Machine.execQnoDeparture core slot s
  | .messageArrival id => Sys2Proof.Machine.execMessageArrival id s
  | .putLanding id => Sys2Proof.Machine.execPutLanding id s
  | .atticSpill core => Sys2Proof.Machine.execAtticSpill core s
  | .atticReplay core => Sys2Proof.Machine.execAtticReplay core s
  | .snetHop rid => Sys2Proof.Machine.execSnetHop rid s
  | .snldTableEffect core => Sys2Proof.Machine.execSnldTableEffect core s
  | .mxrunStart core => Sys2Proof.Machine.execMxrunStart core s
  | .qmaChunkArrival core => Sys2Proof.Machine.execQmaChunkArrival core s
  | .mxrunStepComplete core => Sys2Proof.Machine.execMxrunStepComplete core s
  | .mxrunEmission core => Sys2Proof.Machine.execMxrunEmission core s
  | .mxldbLoad core => Sys2Proof.Machine.execMxldbLoad core s
  | .mxclrDone core => Sys2Proof.Machine.execMxclrDone core s
  | .mxrdDone core id => Sys2Proof.Machine.execMxrdDone core id s
  | .cellarRecordWrite p => Sys2Proof.Machine.execCellarRecordWrite p s
  | .fatalDetect core slot cause value => Sys2Proof.Machine.execFatalDetect core slot cause value s
  | .freezeWaveArrival p origin => Sys2Proof.Machine.execFreezeWaveArrival p origin s
  | .faultDomainEnd rid => Sys2Proof.Machine.execFaultDomainEnd rid s
  | .vaultCopyDone p => Sys2Proof.Machine.execVaultCopyDone p s
  | .deviceFatal cause => Sys2Proof.Machine.execDeviceFatal cause s
  | .powerLoss => Sys2Proof.Machine.execPowerLoss s
  | .getMeasurements fn block => Sys2Proof.Machine.execGetMeasurements fn block s

end Sys2Proof.Machine
end

