-- ==== Sys2Proof/Machine/PeerPort.lean ====
section
/-! DEFINITION. Packets of other packages: their arrival over a link, and what they do at their destination (R181, R184,
R185, R239, R244, R248, R319; log entry 17). -/

namespace Sys2Proof.Machine

/-- The lowest entry of the peer table that names a package (R238, R319; log entry 17). -/
def peerIndex (s : State) (pkg : BitVec 14) : Option (BitVec 12) :=
  ((List.range 4096).find? (fun i =>
    let e := assocGet s.bar.peers i 0
    e.getLsbD 63 && !e.getLsbD 62 && e.extractLsb' 0 14 = pkg)).map (BitVec.ofNat 12)

/-- A packet for another package: it leaves by this package's own entry for it, is held while no link of that entry is trained,
and is refused where there is no such entry (R244, R319). -/
def forward (s : State) (pkg : BitVec 14) (p : Packet) : State :=
  match peerIndex s pkg with
  | none => sendAnswer s p (some cABSENT)
  | some i =>
    let q : Packet := { p with peer := some i, link := none, held := some (s.gtime + Config.absentHold) }
    relink { s with inbound := s.inbound ++ [q] }

/-- A packet that arrives on a link for the package `pkg`: it is forwarded where that is another package, refused where its
core is absent, and else waits at its destination (R181, R319). None comes while no link is trained (R317). Its tenant, its sender's VCN, RID and package come with
it. -/
def execPeerPacket (pkg : BitVec 14) (p : Packet) (s : State) : Result :=
  .next (let (id, s) := s.newId
    let p : Packet := { p with id := id, peer := none, link := none, entry := none, landed := false, held := none, heldFor := none, due := none }
    let absent : Bool := match p.cargo with | .msg .. => false | _ => !present s p.dst
    if !anyLink s then s
    else if pkg ≠ Config.straps then forward s pkg p
    else if absent then sendAnswer s p (some cABSENT)
    else { s with inbound := s.inbound ++ [p] })

/-- The oldest inbound packet of its lane with an identity: packets of one route with one STRM, and messages of one route,
stay in order (R239). -/
def inboundFirst (s : State) (id : Nat) : Option Packet :=
  match s.inbound.find? (fun p => p.id = id) with
  | some p =>
    if (s.inbound.takeWhile (fun q => q.id ≠ id)).all (fun q => !(q.src = p.src && q.dst = p.dst && q.pkg = p.pkg && q.peer = p.peer &&
        (if isMessage p then isMessage q else !isMessage q && q.strm = p.strm))) then some p else none
  | none => none

/-- The source word of a message of QNO names the sender's package by this package's peer table (R238). -/
def peerWord (s : State) (p : Packet) (qno : Bool) (v : Vec) : Vec :=
  match p.pkg, qno with
  | some g, true =>
    let i : BitVec 12 := (peerIndex s g).getD 0
    (v &&& ~~~((0xFFF : Vec) <<< 32)) ||| (i.setWidth 512 <<< 32)
  | _, _ => v

/-- An inbound message enters the inbox, or the landing buffer (R241, R242, R248). -/
def peerMessage (s : State) (p : Packet) (m : Nat) (dslot : BitVec 3) (v : Vec) : State :=
  let e := (s.core m).net
  let msg := packetMessage p dslot v
  if e.landing.any (fun x => x.1 = p.id) then s
  else if e.heap.isEmpty && e.landing.isEmpty && inboxOpen s m then
    answerPeer (s.modNet m (fun e => { e with inbox := e.inbox ++ [msg] })) p.id none
  else if e.landing.length < Config.landingBuffer then
    s.modNet m (fun e => { e with landing := e.landing ++ [(p.id, msg)] })
  else s

/-- What an inbound packet that its destination admits does there: loads and returning atomics never come from another
package (R183). -/
def landPeer (s : State) (p : Packet) : State :=
  match p.cargo with
  | .store l => answerPeer (storeRaw s (l.map (fun b => (keyL p.dst b.1, b.2)))) p.id none
  | .vatom op l => answerPeer (runLanes s p.dst p.dst 8 none op (l.map (fun e => (keyL p.dst e.1, e.2)))) p.id none
  | .arrive off => answerPeer (arriveAt s p.dst off 8 none) p.id none
  | .put off v tag =>
    let s := answerPeer (storeRaw s (plainBytes (keyL p.dst off) (leBytes v.toNat 64))) p.id none
    match tag with | some mb => addMailbox s p.dst mb | none => s
  | .chunk _ l ch last bar mb =>
    if channelHolds s p.dst ch l then s else chunkEffect (answerPeer s p.id none) p.dst 8 none l ch last bar mb
  | .msg drid dvcn dslot v _ qno =>
    match (s.region drid).bind (fun r => coreOfVcn r dvcn.toNat) with
    | some m => peerMessage s p m dslot (peerWord s p qno v)
    | none => s
  | _ => answerPeer s p.id (some cPRIV)

/-- The next step of an inbound packet: it lands, is held for a region that is switched out, or is refused, at the end of
its hold with DEST_ABSENT; one for another package waits for its link alone (R185, R244, R319). -/
def execPeerServe (id : Nat) (s : State) : Result :=
  .next (match inboundFirst s id with
    | none => s
    | some p =>
      if p.peer.isSome then
        (match p.held with | some g => if g ≤ s.gtime then answerPeer s id (some cABSENT) else s | none => s)
      else
      match admitOf s { p with head := { p.head with rid := 0 } } with
      | .take => landPeer s p
      | .discard c => answerPeer s id (some c)
      | .wait rid =>
        match p.held with
        | some g => if g ≤ s.gtime then answerPeer s id (some cABSENT) else s
        | none => { s with inbound := s.inbound.map (fun (q : Packet) =>
            if q.id = id then { q with held := some (s.gtime + Config.absentHold), heldFor := rid } else q) })

end Sys2Proof.Machine
end

