-- ==== Sys2Proof/Machine/Events.lean ====
section
/-! DEFINITION. The steps of the device and the host by their meanings, for the schedule; `exec` makes the same calls. -/

namespace Sys2Proof.Machine

/-- The effect of one scheduled step. -/
def runEvent (e : Event) (s : State) : Result :=
  match e with
  | .regstart fn val => execRegstart fn val s
  | .park fn val => execPark fn val s
  | .parkDone rid => execParkDone rid s
  | .resume fn val => execResume fn val s
  | .evict fn val => execEvict fn val s
  | .evictDone rid => execEvictDone rid s
  | .restore fn val => execRestore fn val s
  | .teardown fn val => execTeardown fn val s
  | .thrint fn val => execThrint fn val s
  | .manreq fn val => execManreq fn val s
  | .manifestRangeHash rid => execManifestRangeHash rid s
  | .ttbaseWrite d val => execTtbaseWrite d val s
  | .tenbindWrite i val => execTenbindWrite i val s
  | .peerTableWrite i val => execPeerTableWrite i val s
  | .ringmasterArm d e ctl => execRingmasterArm d e ctl s
  | .ringmasterDisarm d e ctl => execRingmasterDisarm d e ctl s
  | .ringmasterLaunch d e => execRingmasterLaunch d e s
  | .retrain k val => execRetrain k val s
  | .linkEnable k val => execLinkEnable k val s
  | .linkDisable k val => execLinkDisable k val s
  | .linkErrorRetrain k => execLinkErrorRetrain k s
  | .linkTrainingDone k t => execLinkTrainingDone k t s
  | .linkTrainTimeout k => execLinkTrainTimeout k s
  | .debugStop val => execDebugStop val s
  | .debugStopDone core slot => execDebugStopDone core slot s
  | .debugRelease val => execDebugRelease val s
  | .errinj val => execErrinj val s
  | .registerWrite fn off size val => execRegisterWrite fn off size val s
  | .list fn voff => execList fn voff s
  | .fetch fn form view vid voff => execFetch fn form view vid voff s
  | .erase fn => execErase fn s
  | .manifestFetch fn manid off => execManifestFetch fn manid off s
  | .atsInvalidate pasid va lg => execAtsInvalidate pasid va lg s
  | .translationCompletion d core x => execTranslationCompletion d core x s
  | .pageResponse d req ok => execPageResponse d req ok s
  | .hostAtomicop off op wide opnd swap => execHostAtomicop off op wide opnd swap s
  | .hostBar2Access write off size val => execHostBar2Access write off size val s
  | .atomicopFailed core slot id => execAtomicopFailed core slot id s
  | .powerOn => execPowerOn s
  | .warmReset => execWarmReset s
  | .coldReset => execColdReset s
  | .bringupStageEnd ok => execBringupStageEnd ok s
  | .ptpLockTimeout => execPtpLockTimeout s
  | .ptpLockChange locked => execPtpLockChange locked s
  | .powerControl watts temp thr island mhz swallow => execPowerControl watts temp thr island mhz swallow s
  | .thermalThrottle temp => execThermalThrottle temp s
  | .ageingUpdate d eol conf worst => execAgeingUpdate d eol conf worst s
  | .cimScrub core q row => execCimScrub core q row s
  | .taskReady d id => execTaskReady d id s
  | .taskPlace d => execTaskPlace d s
  | .gangPlace d => execGangPlace d s
  | .gangPressing d => execGangPressing d s
  | .taskStart core slot => execTaskStart core slot s
  | .recordEnqueue d id => execRecordEnqueue d id s
  | .detAtomicBatch key => execDetAtomicBatch key s
  | .kernelBoundary rid => execKernelBoundary rid s
  | .pageDigestDone rid => execPageDigestDone rid s
  | .resultLands core slot => execResultLands core slot s
  | .loadLanding core id => execLoadLanding core id s
  | .holdRelease core slot => execHoldRelease core slot s
  | .bundleLineFill core line => execBundleLineFill core line s
  | .waitComplete core slot => execWaitComplete core slot s
  | .gbarRelease core slot => execGbarRelease core slot s
  | .domainFreeze rid => execDomainFreeze rid s
  | .domainResume rid => execDomainResume rid s
  | .trapTaken core slot => execTrapTaken core slot s
  | .contextSave core slot => execContextSave core slot s
  | .orderQueuePerform core slot id => execOrderQueuePerform core slot id s
  | .seqaddPerform core slot id => execSeqaddPerform core slot id s
  | .atomicExecute core slot id => execAtomicExecute core slot id s
  | .remoteLoadServe id => execRemoteLoadServe id s
  | .remoteStoreLanding id => execRemoteStoreLanding id s
  | .barrierArrival id => execBarrierArrival id s
  | .ackReturn id => execAckReturn id s
  | .destAbsentTimeout id => execDestAbsentTimeout id s
  | .copyLanding core tag => execCopyLanding core tag s
  | .copyComplete core tag => execCopyComplete core tag s
  | .engineFailure core tag f => execEngineFailure core tag f s
  | .wmsetApply core tag => execWmsetApply core tag s
  | .qnoDeparture core slot => execQnoDeparture core slot s
  | .messageArrival id => execMessageArrival id s
  | .putLanding id => execPutLanding id s
  | .atticSpill core => execAtticSpill core s
  | .atticReplay core => execAtticReplay core s
  | .snetHop rid => execSnetHop rid s
  | .snldTableEffect core => execSnldTableEffect core s
  | .mxrunStart core => execMxrunStart core s
  | .qmaChunkArrival core => execQmaChunkArrival core s
  | .mxrunStepComplete core => execMxrunStepComplete core s
  | .mxrunEmission core => execMxrunEmission core s
  | .mxldbLoad core => execMxldbLoad core s
  | .mxclrDone core => execMxclrDone core s
  | .mxrdDone core id => execMxrdDone core id s
  | .cellarRecordWrite p => execCellarRecordWrite p s
  | .fatalDetect core slot cause value => execFatalDetect core slot cause value s
  | .freezeWaveArrival p origin => execFreezeWaveArrival p origin s
  | .faultDomainEnd rid => execFaultDomainEnd rid s
  | .vaultCopyDone p => execVaultCopyDone p s
  | .deviceFatal cause => execDeviceFatal cause s
  | .powerLoss => execPowerLoss s
  | .getMeasurements fn block => execGetMeasurements fn block s
  | .mailWrite fn off val => .next (mailWrite fn off val s)
  | .mailRead fn off => .next (mailRead fn off s)
  | .mailDone fn => .next (mailDone fn s)
  | .spdmVault fn op form view vid off => .next (spdmVault fn op form view vid off s)
  | .peerPacket pkg p => execPeerPacket pkg p s
  | .peerServe id => execPeerServe id s

end Sys2Proof.Machine
end

