-- ==== Sys2Proof/Machine/Schedule.lean ====
section
/-! DEFINITION. The schedule: what a clock does, in which order, and how a step takes the next piece of it (R47, R61, R66,
R67, R175; log entries 4, 5), and a state about to issue one syllable (log entry 3). -/

namespace Sys2Proof.Machine

/-! ### The clock (R61, R66, R67, R320) -/

/-- The ticks of a domain that the clock now ending was. -/
def countTick (s : State) (d : Domain) : Domain := if isTick s d then { d with ticks := d.ticks + 1 } else d

/-- One reference clock of an island below 600 MHz: its phase, and whether it has a pulse. -/
def divideClock (l : List (Nat × (Nat × Nat))) (i : Nat) : List (Nat × (Nat × Nat)) × Bool :=
  match l.find? (fun e => e.1 = i) with
  | none => (l, true)
  | some (_, m, ph) => if ph + m < 600 then (assocSet l i (m, ph + m), false) else (assocSet l i (m, ph + m - 600), true)

/-- An island in the clock that begins: it has a pulse, or none, or one that is swallowed (R66, R320). -/
def islandTurn (s : State) (i : Nat) : State :=
  let (mhz, pulse) := divideClock s.power.mhz i
  let (count, from') := assocGet s.power.swallow i (0, 0)
  let eaten := pulse && count ≠ 0 && from' ≤ islandClock s i
  let swallow := if eaten then (if count = 1 then assocErase s.power.swallow i else assocSet s.power.swallow i (count - 1, from')) else s.power.swallow
  let idle := !pulse || eaten
  { s with power := { s.power with
      mhz := mhz, swallow := swallow
      lost := if idle then assocSet s.power.lost i (assocGet s.power.lost i 0 + 1) else s.power.lost
      idle := if idle then s.power.idle ++ [i] else s.power.idle } }

/-- The pulses still to be swallowed. -/
def owedPulses (s : State) : Nat := s.power.swallow.foldl (fun n e => n + e.2.1) 0

/-- The clock that has begun is noted for PWRSTAT.THR where an island had no pulse; what is older than 1 ms is forgotten. -/
def notePulses (s : State) (owed : Nat) : State :=
  let eaten := owed - owedPulses s
  let kept := s.power.recent.filter (fun e => s.sched.clock < e.1 + 600000)
  let new := if s.power.idle.isEmpty then [] else [(s.sched.clock, (s.power.idle.length - eaten, eaten))]
  { s with power := { s.power with recent := new ++ kept } }

/-- The throttling that the power controller keeps up: any island may be throttled again in a clock, which is free
(R320; log entry 45). -/
def keepThrottling (s : State) : State :=
  if !mustThrottle s then s
  else
    let t := { s with sched := { s.sched with fresh := s.sched.fresh + 1 } }
    if Config.happens s.sched.fresh then throttleAll t else t

/-- The islands of the clock that begins. -/
def powerTurn (s : State) : State :=
  let s := keepThrottling s
  let l := (s.power.mhz.map (fun e => e.1) ++ s.power.swallow.map (fun e => e.1)).eraseDups
  notePulses (l.foldl islandTurn { s with power := { s.power with idle := [] } }) (owedPulses s)

/-- The listed cores with a pulse in this clock. -/
def pulsedCores (s : State) : List Nat := (s.cores.map (fun c => c.1)).filter s.pulsed

/-- A freeze or a resume of a domain whose clock has come (R62, R64). -/
def domainTurn (s : State) (d : Domain) : State :=
  let s := afterStep (execDomainFreeze d.root s) s
  afterStep (execDomainResume d.root s) s

/-- One clock of a core's router, gang engine and jobs. -/
def coreClockwork (s : State) (n : Nat) : State :=
  let s := afterStep (execSnldTableEffect n s) s
  tickJobs (tickEngine s n) n

/-- Does an ended thread still have something to be performed (R344)? -/
def lingers (c : Core) (t : Thread) : Bool := !t.orderQ.isEmpty || !t.qev.isEmpty || c.net.misses.any (fun m => m.tid = t.tid)

/-- A core without its ended threads that are through. -/
def forgetEnded (c : Core) : Core := { c with ended := c.ended.filter (lingers c) }

/-- The slot whose turn a core has in a clock evaluates its WAITMB, once the clock's landings are made (R233). -/
def mailTurn (s : State) (n : Nat) : State :=
  let k := s.coreClock n % 8
  match s.thread n k with
  | none => s
  | some t =>
    if s.frozenFor t || t.life.faulted.isSome || t.life.saving.isSome || t.life.stopped || t.life.halted || t.life.resuming then s
    else evalMailbox s n k

/-! ### What a clock has to run -/

/-- The due launches of a die: each that waits for its record's page, and the first of the others (R46, R73). -/
def dueLaunches (s : State) (d : BitVec 2) : List Event :=
  let due := (s.die d).rm.filter (fun e => e.2.ctl.getLsbD 7 && rmDue e.2 ≤ s.gtime)
  let waits := due.filter (fun e => rmWaits s d e.2)
  (waits ++ (due.find? (fun e => !rmWaits s d e.2)).toList).map (fun e => .ringmasterLaunch d (BitVec.ofNat 8 e.1))

/-- Does a Cellar have something to write? -/
def cellarWaits (c : Cellar) : Bool := !c.staging.isEmpty || !c.incoming.isEmpty

/-- Has a bring-up stage whose end a state shows come to it: stage 5 with no link in training, stage 6 with lock (R315)? -/
def stageOver (s : State) : Bool :=
  s.bar.failst = 0xF && ((s.bar.stage = 5 && !s.links.toList.any (fun l => l.training)) || (s.bar.stage = 6 && s.bar.ptplock))

/-- The check of the row of a core's macros that holds an error (R266). -/
def scrubEvent (s : State) (n : Nat) : List Event :=
  match cimInjected s n with
  | some (mac, row) => [.cimScrub n (BitVec.ofNat 2 mac) (BitVec.ofNat 9 row)]
  | none => []

/-- The first bundles of tasks that hit in a Storeroom slice of their die: the fetch that R44 bounds has them by the clock from which the
slot fetches (R44, R45, R395). -/
def entryFills (s : State) (n : Nat) : List Event :=
  (coreThreads (s.core n)).filterMap (fun t =>
    if t.life.started || classOf t.ctl.pc ≠ .m || s.coreClock n + 1 < t.pipe.fetchAt then none
    else
      match fetchOf s n t with
      | .miss key =>
        if !isHost key && homeSlice key / 8 = dieOf n && Config.inStoreroom key t.pipe.fetchAt then some (.bundleLineFill n key) else none
      | _ => none)

/-- The steps that their rules place in this very clock. -/
def dueEvents (s : State) : List Event :=
  let ns := pulsedCores s
  let ds : List (BitVec 2) := [0, 1, 2, 3]
  (s.regions.filter (endDue s)).map (fun r => .faultDomainEnd r.rid) ++
    (s.regions.filter (fun r => r.phase = .parking && (busyFn s r.rid).isSome && nothingRuns s r.rid)).map (fun r => .parkDone r.rid) ++
    (s.regions.filter (fun r => r.phase ≠ .ending && !r.atRest && restful s r.rid)).map (fun r => .kernelBoundary r.rid) ++
    (ds.map (fun d => if (s.die d).disp.any (pressDue s) then [Event.gangPressing d] else [])).flatten ++
    (ds.map (dueLaunches s)).flatten ++
    ((ns.filter (replayDue s)).map (fun n => .atticReplay n)) ++
    ((ns.filter (fun n => s.coreClock n % 2 ^ 20 = 2 ^ 20 - 1)).map (scrubEvent s)).flatten ++
    (if stageOver s then [.bringupStageEnd true] else []) ++
    (ns.map (engineEvents s)).flatten ++ (ns.map (entryFills s)).flatten ++
    (s.deferred.filter (fun d => !(batchOf s d.key).isEmpty)).map (fun d => .detAtomicBatch d.key) ++
    (s.net.filter (fun p => !p.landed && (match p.held with | some g => g ≤ s.gtime | none => false))).map (fun p => .destAbsentTimeout p.id) ++
    (s.inbound.filter (fun p => match p.held with | some g => g ≤ s.gtime | none => false)).map (fun p => .peerServe p.id) ++
    (s.net.filter (fun p => match p.due with | some c => c ≤ s.sched.clock | none => false)).filterMap packetEvent ++
    ((s.cores.filter (fun c => cellarWaits c.2.cellar || (coreThreads c.2).any (fun t => t.qev.any (fun e => e.val.isSome)))).map
      (fun c => .cellarRecordWrite (.core c.1))) ++
    (ds.filter (fun d => cellarWaits (s.die d).cellar)).map (fun d => .cellarRecordWrite (.die d))

/-- The lines of the bundle buffer that a core may fill: those that its threads miss, and up to two that the fetch unit
runs ahead to, within the page (R178). -/
def fillEvents (s : State) (n : Nat) : List Event :=
  ((coreThreads (s.core n)).map (fun t =>
    if classOf t.ctl.pc ≠ .m then []
    else
      match fetchOf s n t with
      | .miss key => [.bundleLineFill n key]
      | .bytes _ =>
        match lookupXlate s n (pasidOf s t.task.rid) t.ctl.pc.toNat with
        | some e =>
          let key := xlateKey e.t t.ctl.pc.toNat / 128 * 128
          ([key + 128, key + 256].filter (fun k => k / 4096 = key / 4096 && (bufferedLine (s.core n) k).isNone)).map (fun k => .bundleLineFill n k)
        | none => []
      | _ => [])).flatten

/-- The steps of a core that no rule places in one clock. -/
def coreEvents (s : State) (n : Nat) : List Event :=
  let c := s.core n
  queueEvents s n ++ jobEvents s n ++ fillEvents s n ++
    (c.net.misses.filter (fun m => m.data.isSome && m.turns.isNone)).map (fun m => .loadLanding n m.id) ++
    (allSlots.filter (fun k => match s.thread n k with | some t => t.life.saving.isSome && t.life.faulted.isNone | none => false)).map
      (fun k => .contextSave n k) ++
    (allSlots.filter (fun k => match s.thread n k with | some t => t.life.stopped && t.life.stopReq | none => false)).map
      (fun k => .debugStopDone n k) ++
    (allSlots.filter (fun k => match s.thread n k with | some t => !t.qno.isEmpty | none => false)).map (fun k => .qnoDeparture n k) ++
    (if c.net.landing.isEmpty then [] else [.atticSpill n]) ++ (if c.net.heap.isEmpty then [] else [.atticReplay n]) ++
    scrubEvent s n

/-- The steps that may happen in this clock or a later one (log entry 5). -/
def freeEvents (s : State) : List Event :=
  ((s.cores.map (fun c => coreEvents s c.1)).flatten) ++ s.net.filterMap packetEvent ++ s.inbound.map (fun p => .peerServe p.id) ++
    (s.net.filter (fun p => p.peer.isSome && !p.landed)).map (fun p => .destAbsentTimeout p.id) ++
    (s.regions.filter (fun r => r.phase = .evicting && (busyFn s r.rid).isSome && evictReady s r)).map (fun r => .evictDone r.rid) ++
    (s.regions.filter (fun r => s.manifests.any (fun m => some m.id = r.manifest && !m.closed && m.recs.length < m.ranges.length))).map
      (fun r => .manifestRangeHash r.rid) ++
    (s.regions.filter (fun r => r.digest)).map (fun r => .pageDigestDone r.rid) ++
    (match headCapture s.vault.taking with | some c => c.reached.map .vaultCopyDone | none => [])

/-- Those of some steps that happen in this clock, from free choice number k on. -/
def thin (k : Nat) (l : List Event) : List Event :=
  match l with
  | [] => []
  | e :: r => if Config.happens k then e :: thin (k + 1) r else thin (k + 1) r

/-- The steps of this clock: those due, and those of the others that happen now, in a free order. -/
def planEvents (s : State) : State :=
  let l := freeEvents s
  let k := s.sched.fresh
  let now := thin k l
  { s with sched := { s.sched with
      todoEv := dueEvents s ++ shuffle now.length (k + l.length) now, fresh := k + 2 * l.length } }

/-- The cores whose slot of this clock holds a thread. -/
def planCores (s : State) : State :=
  let l := (pulsedCores s).filter (fun n => (s.thread n (s.coreClock n % 8)).isSome)
  { s with sched := { s.sched with todoCores := l } }

/-- The next clock begins: GTIME and the domains count, islands have their pulses, domains freeze or resume, routers, gang
engines and jobs make their clock, gangs at their barrier start, and the rest is planned. -/
def nextClock (s : State) : State :=
  let s := { s with domains := s.domains.map (countTick s) }
  let s := { s with sched := { s.sched with clock := s.sched.clock + 1, g3 := s.sched.g3 + 80 } }
  let s := powerTurn s
  let before := s
  let s := s.domains.foldl domainTurn s
  let s := (pulsedCores s).foldl coreClockwork s
  let s := ((pulsedCores s).filter (gangArrived s)).foldl (fun s n => afterStep (execMxrunStart n s) s) s
  let s := s.domains.foldl (fun s d => afterStep (execSnetHop d.root s) s) s
  let s := (s.cores.map (fun c => c.1)).foldl noteReplay s
  let s := { s with cores := s.cores.map (fun (c : Nat × Core) => (c.1, forgetEnded c.2)) }
  let s := (pulsedCores s).foldl (noteClockwork before) s
  planCores (planEvents s)

/-! ### One step -/

/-- The first entry of an agenda that is due, and the rest. -/
def takeDue (clock : Nat) (l : List (Nat × Event)) : Option (Event × List (Nat × Event)) :=
  match l with
  | [] => none
  | e :: r =>
    if e.1 ≤ clock then some (e.2, r)
    else match takeDue clock r with | some (x, q) => some (x, e :: q) | none => none

/-- A die places its task or gang of this clock, of all the records that the clock made ready, after the gangs that now stand
first are noted (R38, R41). -/
def placeTurn (s : State) (d : BitVec 2) : State :=
  let s := noteFirst s d
  let s := afterStep (execTaskPlace d s) s
  afterStep (execGangPlace d s) s

/-- A clock ends: the WAITMBs whose turn it was are evaluated, the dies place their records, and the next clock begins (R38,
R233). -/
def endClock (s : State) : State := nextClock ([(0 : BitVec 2), 1, 2, 3].foldl placeTurn ((pulsedCores s).foldl mailTurn s))

/-- One step: the turn of the next core of this clock, then the inputs and timed steps that are due, then the clock's other
steps; with nothing left the clock ends. Front-port accesses of a clock so come before its back-port writes (R175). -/
def advance (s : State) : Result :=
  match s.sched.todoCores with
  | n :: r =>
    if 3072 ≤ n then .fault (.noSuchCore n) else .next (slotTurn { s with sched := { s.sched with todoCores := r } } n)
  | [] =>
    match takeDue s.sched.clock s.sched.agenda with
    | some (e, l) => runEvent e { s with sched := { s.sched with agenda := l } }
    | none =>
      match s.sched.todoEv with
      | e :: r => runEvent e { s with sched := { s.sched with todoEv := r } }
      | [] => .next (endClock s)

/-! ### A program of one syllable (log entry 3) -/

/-- The byte offset of a position in a bundle (R94). -/
def posOffset (p : Pos) : Nat :=
  match p with | .x => 4 | .y => 8 | .va => 12 | .vb => 16 | .l => 20 | .c => 24 | .e => 28

/-- The 32 bytes of a bundle with one syllable. -/
def bundleOf (p : Pos) (w : Nat) : List Byte :=
  List.replicate (posOffset p) 0 ++ leBytes w 4 ++ List.replicate (28 - posOffset p) 0

/-- A region of one core, as a start of it would leave it. -/
def loneRegion (s : State) : Region :=
  { rid := 1, parent := 0, depth := 1, rcb := keyStack 0, rcbVa := 0, pasid := 0, fn := .pf, via := .pf, tenant := 0, prio := 0
    timed := false, det := false, rclass := 0, fdr := true, gpart := 0, tslots := 0, own := true, cores := [0], rows := [], ncores := 1, grows := 0, policy := 0
    quota := none, aging := 0, tfirst := 0, tcount := 0, pool := 0x100000, pooln := 1, ownPool := true, exitc := 0xFFFFF, hvec := 0
    seqn := 1, tag := 1, started := s.gtime, phase := .live, manifest := none, detNext := [], detRun := [], atRest := false
    restAt := 0, digest := false, cause := none, causev := 0, endNow := false, closing := none, taken := [], area := 0, seals := [], evicted := [] }

/-- The state with a word, read as `decodeTableWord` reads it, as the one syllable of the next bundle: the bundle stands in
the scratchpad of core 0 at its PC 0x8000, whose slot of this clock holds a fresh task of a region of that core, and the
slot's turn is next (log entry 3). -/
def placeWord (s : State) (w : Nat) : State :=
  let p := match firstMeaning tablePositions (w % 2 ^ 32) with | some (p, _) => p | none => .x
  let r := loneRegion s
  let t := parseTrec 0
  let k := s.coreClock 0 % 8
  let th := newThread s.sched.nextId r.rid 0 { t with entry := 0x8000 } none 0 0 0 1 0 (s.coreClock 0)
  let s := { s with
    mem := Memory.writeBytes s.mem (keyL 0 0x8000) (bundleOf p (w % 2 ^ 32))
    regions := r :: s.regions.filter (fun q => q.rid ≠ r.rid)
    sched := { s.sched with todoCores := [0], nextId := s.sched.nextId + 1 } }
  (s.setThread 0 k (some th)).modCore 0 (fun c => { c with owner := some r.rid })

end Sys2Proof.Machine
end

