-- ==== Sys2Proof/Machine/Step.lean ====
section
/-! DEFINITION. One step of the machine, and a state whose next step issues one word. -/

namespace Sys2Proof.Machine

/-- One step: a slot's turn, a scheduled step of the device or an input, or the next clock (log entry 4). -/
def step (s : State) : Host.Outcome State Fault Refusal := Sys2Proof.Machine.advance s

/-- `s` with the syllable of an opcode-table word where the next step fetches (log entry 3). -/
def State.withFetchWord (s : State) (_nbits w : Nat) : State := Sys2Proof.Machine.placeWord s w

end Sys2Proof.Machine
end

