-- ==== Sys2Proof/Safety.lean ====
section
/-! DEFINITION. The terms in which claims are made: who issues, what a syllable gives, and what a good state is. -/

namespace Sys2Proof.Safety

open Machine

/-- Thread `t` issues in `s`, and its predicate guard `g` holds (R79). -/
def Issues (s : State) (t : Thread) (g : Guard) : Prop := s.cth = some t ∧ guardHolds t.regs g = true

/-- `i` gives one result: `v` for `d`, to land after `lat` turns with the flags `fl`, and does nothing else. -/
def Gives (i : Instr) (s : State) (d : Dest) (v : Word) (lat : Nat) (fl : BitVec 5) : Prop :=
  exec i s = .next (pushFlight s d (v.setWidth 512) (BitVec.allOnes 512) lat fl)

/-- `i` gives a predicate. -/
def GivesPred (i : Instr) (s : State) (pd : BitVec 3) (v : Bool) (lat : Nat) (fl : BitVec 5) : Prop :=
  exec i s = .next (pushFlight s (.p pd) (if v then 1 else 0) (BitVec.allOnes 512) lat fl)

/-- `i` takes its pops from `srcs` and gives n lanes of width w, of which it writes those that `g` enables; under the guard that
never holds it does nothing (R79, R101, R402). -/
def GivesLanes (i : Instr) (s : State) (t : Thread) (srcs : List Reg) (d : Reg) (w n lat : Nat) (g : Guard)
    (f : Nat → Nat) (fl : BitVec 5) : Prop :=
  exec i s = .next (if Guard.never g then s else
    pushFlight (srcs.foldl popPort s) (vreg d) (ofLanes w ((List.range n).map f)) (laneMask t.regs g w n) lat fl)

/-- `i` traps the bundle with a cause, a syllable number and a value (R88, R250). -/
def Traps (i : Instr) (s : State) (cause : BitVec 16) (syl : Nat) (val : Word) : Prop :=
  exec i s = .next (trapCur s cause syl val)

/-- n bytes at `ea` are a class-L access that nothing holds: aligned, below the context tails, in no armed watermark window,
behind no deferred atomic of the thread, and no soft error is armed (R172, R173, R206, R236, R267, R299). -/
def ScratchpadAccess (s : State) (ea : Word) (n align : Nat) : Prop :=
  ea.toNat % align = 0 ∧ ea.toNat + n ≤ 0x78000 ∧ watermarked s.ccore ea.toNat n = false ∧ s.bar.errinj.getLsbD 63 = false ∧
    ∀ t, s.cth = some t → localPending s t = false

/-- `i` stores the bytes `l` from byte key `key` up, and changes no other byte of memory, no core, register or thread. -/
def StoresBytes (i : Instr) (s : State) (key : Nat) (l : List Byte) : Prop :=
  ∃ u, exec i s = .next u ∧
    (∀ a, Memory.read u.mem a = if key ≤ a ∧ a < key + l.length then l.getD (a - key) 0 else Memory.read s.mem a) ∧
    u.cores = s.cores ∧ u.cur = s.cur ∧ u.regions = s.regions ∧ u.dies = s.dies ∧ u.net = s.net ∧ u.sched = s.sched

/-- `i` completes by queueing the access `kind` on a stream as the youngest entry of its thread's order queue (R206, R210). -/
def Queues (i : Instr) (s : State) (sid : Nat) (rel loop : Bool) (kind : QKind) : Prop :=
  exec i s = .next (pushQ s sid rel false loop (fun _ => kind))

/-- The record in which a load holds a miss register: its thread and destination, what it reads and how it extends that, and the latency
accumulators that its landing adds to (R83, R84, R186). -/
def missOf (t : Thread) (d : Dest) (acq : Bool) (key n : Nat) (signed : Bool) (lats : List Nat) (id : Nat) : Miss :=
  ⟨id, t.tid, some d, true, acq, none, key, n, signed, BitVec.allOnes 512, 0, none, lats, none, none⟩

/-- `i` completes as a load under way: thread `t` holds the miss register `m`, the pending bit of `d` and, as the youngest entry of its
order queue, the access `kind`; no register and no byte of memory changes (R83, R84, R206). -/
def QueuesLoad (i : Instr) (s : State) (t : Thread) (d : Dest) (sid : Nat) (rel acq loop : Bool) (m : Nat → Miss) (kind : Nat → QKind) :
    Prop :=
  ∃ u t', exec i s = .next u ∧ u.cth = some t' ∧ u.ccore.net.misses = s.ccore.net.misses ++ [m s.sched.nextId] ∧
    t'.pipe.pend = t.pipe.pend ++ (if Dest.counts d then [d] else []) ∧
    t'.orderQ.getLast? = some ⟨s.sched.nextId, sid, rel, acq, loop, false, false, kind s.sched.nextId⟩ ∧
    t'.regs = t.regs ∧ t'.ctl = t.ctl ∧ u.mem = s.mem

/-- The produced token of an E instruction is done in every slot that its thread holds on core n (R82). -/
def TokenDone (u : State) (n : Nat) (h : EHead) : Prop :=
  ∀ k t, u.thread n k = some t → t.tid = h.tid → h.kp ≠ 0 → t.tok[h.kp.toNat]? = some .done

/-- Nothing delays the bundle of thread `t` in slot k of core n, its results once landed: no stall, wait, fetch, fault, save,
stop or reported cause (R48, R251). -/
structure Ready (s : State) (n : Nat) (t : Thread) : Prop where
  stall : t.pipe.stallLeft = 0 ∧ t.pipe.owed = 0
  waits : t.pipe.wait = .none ∧ t.pipe.waitLeft = 0
  fetch : t.pipe.fetchAt ≤ s.coreClock n
  life : t.life.faulted = none ∧ t.life.saving = none ∧ t.life.stopped = false ∧ t.life.halted = false
  stays : leaving s t = false ∧ nextReport s t = none ∧ stopDue s n t = false

/-- Is an instruction a NOP of some position? -/
def isNop (i : Instr) : Bool := match i with | .nop _ => true | _ => false

/-- The bundle passes its checks in `s`, and its one syllable besides NOPs is `i`, of number j (R59, R83, R97, R251, R253, R298). -/
structure OneSyllable (s : State) (n k : Nat) (t : Thread) (b : Bundle) (j : Nat) (i : Instr) (w : Word) : Prop where
  only : b.syls.filter (fun e => !isNop e.2.1) = [(j, i, w)]
  nops : ∀ e ∈ b.syls, privileged t e.2.1 = false ∧ interlocked t e.2.1 = false
  strict : b.strict = false ∧ t.ctl.ths.getLsbD 4 = false
  results : flightsAfter s t b ≤ 16
  pops : forbiddenPop t i = false
  runs : ∀ u, exec i s = .next u → u.cur.issue = .none
  gang : gangReady s n k t = true

/-- A region operation that its common checks let through: the device takes operations, none of function `f` is in progress,
and `r` is a live region inside its subtree (R261, R312, R316). -/
def Operates (s : State) (f : Fn) (val : Word) (r : Region) : Prop :=
  accepting s = true ∧ (s.fnRegs f).regopst.getLsbD 9 = false ∧ s.region (val.extractLsb' 48 16) = some r ∧
    fnOwns s f (val.extractLsb' 48 16) = true

/-- REGOPST of a function shows a finished operation with a status (R261). -/
def OpEnds (u : State) (f : Fn) (st : BitVec 8) : Prop :=
  (u.fnRegs f).regopst.getLsbD 9 = false ∧ (u.fnRegs f).regopst.extractLsb' 0 8 = st

/-- A region stands in a phase. -/
def InPhase (u : State) (rid : BitVec 16) (p : Phase) : Prop := ∃ q, u.region rid = some q ∧ q.phase = p

/-- A device step leaves every thread in its slot with its registers, control registers and tokens. -/
def SameThreads (s u : State) : Prop :=
  ∀ n k t, s.thread n k = some t → ∃ t', u.thread n k = some t' ∧ t'.regs = t.regs ∧ t'.ctl = t.ctl ∧ t'.tok = t.tok

/-- m × 2^e, or with `more` a value strictly between that and (m + 1) × 2^e, rounded to a multiple of 2^q in direction `rm`: the
multiple, and whether a part was dropped (R128). The part is counted in halves of 2^e, one for what is `more`. -/
def multipleAt (rm : Nat) (neg : Bool) (m : Nat) (e q : Int) (more : Bool) : Nat × Bool :=
  let whole := 2 ^ (q - e).toNat
  let n := if q ≤ e then m * 2 ^ (e - q).toNat else m / whole
  let part := if q ≤ e then 0 else 2 * (m % whole) + (if more then 1 else 0)
  let up : Bool := match rm with
    | 0 => whole < part || (part = whole && n % 2 = 1)
    | 1 => false
    | 2 => neg && 0 < part
    | _ => !neg && 0 < part
  (if up then n + 1 else n, 0 < part)

/-- m × 2^e < n × 2^q. -/
def Below (m : Nat) (e : Int) (n : Nat) (q : Int) : Prop := m * 2 ^ (e - min e q).toNat < n * 2 ^ (q - min e q).toNat

/-- `r` is the code and the flags of the non-zero value ± m × 2^e, or with `more` of one strictly between that and ± (m + 1) × 2^e,
rounded once to a format: the multiple of the weight of the last kept bit where the format holds it, with NX where a part was dropped and
UF where the value is tiny too, or else the result of an overflow with OF and NX (R128 to R130). -/
def RoundsTo (f : Fmt) (rm : Nat) (neg : Bool) (m : Nat) (e : Int) (more : Bool) (r : Nat × BitVec 5) : Prop :=
  let lead := e + (Nat.log2 m : Int)
  let q := max lead f.emin - f.fb
  let n := multipleAt rm neg m e q more
  let free := multipleAt rm neg m e (lead - f.fb) more
  let sign (c : Nat) : Nat := if neg then f.signBit + c else c
  let top : Nat := if f = fmtE4M3 then 0x7F else sign f.infCode
  ∃ mx ex, f.decode f.maxCode = .fin false mx ex ∧
    (Below mx ex n.1 q → r = ((match rm with
        | 0 => top
        | 1 => sign f.maxCode
        | 2 => if neg then top else f.maxCode
        | _ => if neg then sign f.maxCode else top), fOF ||| fNX)) ∧
    (¬Below mx ex n.1 q →
      (f.decode r.1 = .fin neg n.1 q ∨ (n.1 = 2 ^ (f.fb + 1) ∧ f.decode r.1 = .fin neg (2 ^ f.fb) (q + 1))) ∧
        r.1 < 2 * f.signBit ∧ (n.2 = false → r.2 = 0) ∧ (n.2 = true → Below free.1 (lead - f.fb) 1 f.emin → r.2 = fNX ||| fUF) ∧
        (n.2 = true → ¬Below free.1 (lead - f.fb) 1 f.emin → r.2 = fNX))

/-- A good state: its memory has the canonical form. -/
def Good (s : State) : Prop := Memory.wf s.mem = true

end Sys2Proof.Safety
end

