-- ==== Sys2Proof/Certificates/Slice0/Obligations.lean ====
section
/-! DEFINITION. The statements for the provers, family by family in the order of the opcode table. -/

open Sys2Proof Sys2Proof.Machine Sys2Proof.Safety

/-! ### Scalar integer (R105, R323 to R447) -/

/-- R326, R327, R378, R401, R446, R393, R370, R366, R342: the two-source integer syllables complete with their results. -/
def Obligations.IntegerTwoSourceResults : Prop :=
  decode .x 0x04853020 = .ok (.sub .x 4 5 6 ⟨0, false⟩) ∧ decode .x 0x04C218E0 = .ok (.max .x 6 2 3 ⟨0, false⟩) ∧
  decode .x 0x04C21900 = .ok (.maxu .x 6 2 3 ⟨0, false⟩) ∧ decode .x 0x04C218D0 = .ok (.min .x 6 2 3 ⟨0, false⟩) ∧
  decode .x 0x04C218F0 = .ok (.minu .x 6 2 3 ⟨0, false⟩) ∧
  ∀ (s : State) (t : Thread) (cl : Cl) (d a b : Reg) (g : Guard), Issues s t g →
    let x := t.regs.getS cl a
    let y := t.regs.getS cl b
    let r := Cl.reg cl d
    Gives (.add cl d a b g) s r (x + y) 1 0 ∧
    Gives (.sub cl d a b g) s r (x - y) 1 0 ∧
    Gives (.and cl d a b g) s r (x &&& y) 1 0 ∧
    Gives (.andn cl d a b g) s r (x &&& ~~~y) 1 0 ∧
    Gives (.or cl d a b g) s r (x ||| y) 1 0 ∧
    Gives (.xor cl d a b g) s r (x ^^^ y) 1 0 ∧
    Gives (.sll cl d a b g) s r (x <<< (y.toNat % 64)) 1 0 ∧
    Gives (.srl cl d a b g) s r (x >>> (y.toNat % 64)) 1 0 ∧
    Gives (.sra cl d a b g) s r (x.sshiftRight (y.toNat % 64)) 1 0 ∧
    Gives (.mul cl d a b g) s r (x * y) 2 0 ∧
    (∃ h : Word, Gives (.mulh cl d a b g) s r h 2 0 ∧
      ∃ lo : Nat, lo < 2 ^ 64 ∧ x.toInt * y.toInt = h.toInt * 2 ^ 64 + lo) ∧
    (∃ h : Word, Gives (.mulhu cl d a b g) s r h 2 0 ∧
      ∃ lo : Nat, lo < 2 ^ 64 ∧ x.toNat * y.toNat = h.toNat * 2 ^ 64 + lo) ∧
    Gives (.min cl d a b g) s r (if x.toInt ≤ y.toInt then x else y) 1 0 ∧
    Gives (.max cl d a b g) s r (if x.toInt ≤ y.toInt then y else x) 1 0 ∧
    Gives (.minu cl d a b g) s r (if x.toNat ≤ y.toNat then x else y) 1 0 ∧
    Gives (.maxu cl d a b g) s r (if x.toNat ≤ y.toNat then y else x) 1 0

/-- R123, R342: division completes on every operand; by zero it gives all ones, with the dividend as the remainder. The most
negative value by -1 gives itself and remainder 0. -/
def Obligations.DivisionResultsAndCorners : Prop :=
  ∀ (s : State) (t : Thread) (cl : Cl) (d a b : Reg) (g : Guard), Issues s t g →
    let x := t.regs.getS cl a
    let y := t.regs.getS cl b
    let r := Cl.reg cl d
    (∃ q m : Word, Gives (.div cl d a b g) s r q 20 0 ∧ Gives (.rem cl d a b g) s r m 20 0 ∧
      (y = 0 → q = BitVec.allOnes 64 ∧ m = x) ∧
      (x = BitVec.intMin 64 → y = BitVec.allOnes 64 → q = BitVec.intMin 64 ∧ m = 0) ∧
      (y ≠ 0 → ¬(x = BitVec.intMin 64 ∧ y = BitVec.allOnes 64) →
        x.toInt = q.toInt * y.toInt + m.toInt ∧ m.toInt.natAbs < y.toInt.natAbs ∧
          (m ≠ 0 → (m.toInt < 0 ↔ x.toInt < 0)))) ∧
    (∃ q m : Word, Gives (.divu cl d a b g) s r q 20 0 ∧ Gives (.remu cl d a b g) s r m 20 0 ∧
      (y = 0 → q = BitVec.allOnes 64 ∧ m = x) ∧
      (y ≠ 0 → x.toNat = q.toNat * y.toNat + m.toNat ∧ m.toNat < y.toNat))

/-- R336, R380, R391, R447: the one-source integer syllables complete with their results, given bit by bit. -/
def Obligations.IntegerOneSourceResults : Prop :=
  ∀ (s : State) (t : Thread) (cl : Cl) (d a : Reg) (g : Guard), Issues s t g →
    let x := t.regs.getS cl a
    let r := Cl.reg cl d
    Gives (.popc cl d a g) s r (BitVec.ofNat 64 ((List.range 64).countP (fun i => x.getLsbD i))) 1 0 ∧
    (∃ n : Nat, Gives (.clz cl d a g) s r (BitVec.ofNat 64 n) 1 0 ∧ n ≤ 64 ∧
      (∀ i, i < n → x.getMsbD i = false) ∧ (n < 64 → x.getMsbD n = true)) ∧
    (∃ n : Nat, Gives (.ctz cl d a g) s r (BitVec.ofNat 64 n) 1 0 ∧ n ≤ 64 ∧
      (∀ i, i < n → x.getLsbD i = false) ∧ (n < 64 → x.getLsbD n = true)) ∧
    (∃ v : Word, Gives (.brev cl d a g) s r v 1 0 ∧ ∀ i, i < 64 → v.getLsbD i = x.getMsbD i) ∧
    Gives (.sextb cl d a g) s r ((x.setWidth 8).signExtend 64) 1 0 ∧
    Gives (.sexth cl d a g) s r ((x.setWidth 16).signExtend 64) 1 0 ∧
    Gives (.sextw cl d a g) s r ((x.setWidth 32).signExtend 64) 1 0 ∧
    Gives (.zextw cl d a g) s r (x &&& 0xFFFFFFFF) 1 0

/-- R100, R324, R339, R369, R384, R392, R393, R445: the immediate forms, compares, selects and moves complete with
their results; IMM12 = 0x800 takes the bundle's literal where the bundle has one. R393, R100: an immediate shift
completes for an amount below 64 and traps ILLEGAL with its word otherwise, which only a literal gives. -/
def Obligations.ImmediateCompareAndMoveResults : Prop :=
  (∀ (s : State) (t : Thread) (cl : Cl) (d a b : Reg) (pd pf : BitVec 3) (imm : BitVec 12) (m : BitVec 17) (h : BitVec 16)
     (g : Guard), Issues s t g →
     let x := t.regs.getS cl a
     let y := t.regs.getS cl b
     let r := Cl.reg cl d
     let v : Word := match s.cur.lit with
       | some w => if imm = 0x800 then w.signExtend 64 else imm.signExtend 64
       | none => imm.signExtend 64
     Gives (.addi cl d a imm g) s r (x + v) 1 0 ∧
     Gives (.andi cl d a imm g) s r (x &&& v) 1 0 ∧
     Gives (.ori cl d a imm g) s r (x ||| v) 1 0 ∧
     Gives (.xori cl d a imm g) s r (x ^^^ v) 1 0 ∧
     Gives (.muli cl d a imm g) s r (x * v) 2 0 ∧
     GivesPred (.cmpiEq cl pd a imm g) s pd (decide (x = v)) 1 0 ∧
     GivesPred (.cmpiLt cl pd a imm g) s pd (decide (x.toInt < v.toInt)) 1 0 ∧
     GivesPred (.cmpiLtu cl pd a imm g) s pd (decide (x.toNat < v.toNat)) 1 0 ∧
     GivesPred (.cmp .eq cl pd a b g) s pd (decide (x = y)) 1 0 ∧
     GivesPred (.cmp .ne cl pd a b g) s pd (decide (x ≠ y)) 1 0 ∧
     GivesPred (.cmp .lt cl pd a b g) s pd (decide (x.toInt < y.toInt)) 1 0 ∧
     GivesPred (.cmp .ltu cl pd a b g) s pd (decide (x.toNat < y.toNat)) 1 0 ∧
     GivesPred (.cmp .le cl pd a b g) s pd (decide (x.toInt ≤ y.toInt)) 1 0 ∧
     GivesPred (.cmp .leu cl pd a b g) s pd (decide (x.toNat ≤ y.toNat)) 1 0 ∧
     Gives (.sel cl d pf a b g) s r (if t.regs.getP pf then x else y) 1 0 ∧
     Gives (.xmov cl d a g) s (match cl with | .x => .y d | .y => .x d) x 2 0 ∧
     Gives (.movi cl d m g) s r (m.signExtend 64) 1 0 ∧
     Gives (.shori cl d h g) s r ((t.regs.getS cl d <<< 16) ||| h.setWidth 64) 1 0) ∧
  (∀ (s : State) (t : Thread) (cl : Cl) (d a : Reg) (imm : BitVec 12) (g : Guard), Issues s t g →
     let x := t.regs.getS cl a
     let r := Cl.reg cl d
     let n : Nat := match s.cur.lit with
       | some w => if imm = 0x800 then (w.signExtend 64).toNat else imm.toNat
       | none => imm.toNat
     let k := match cl with | .x => 1 | .y => 2
     let word (op : Nat) : Word :=
       BitVec.ofNat 64 (op * 2 ^ 26 + d.toNat * 2 ^ 21 + a.toNat * 2 ^ 16 + imm.toNat * 2 ^ 4 + g.g.toNat * 2 + g.n.toNat)
     (n < 64 →
       Gives (.slli cl d a imm g) s r (x <<< n) 1 0 ∧ Gives (.srli cl d a imm g) s r (x >>> n) 1 0 ∧
         Gives (.srai cl d a imm g) s r (x.sshiftRight n) 1 0) ∧
     (64 ≤ n →
       Traps (.slli cl d a imm g) s cILLEGAL k (word 0x0C) ∧ Traps (.srli cl d a imm g) s cILLEGAL k (word 0x0D) ∧
         Traps (.srai cl d a imm g) s cILLEGAL k (word 0x0E)))

/-! ### Results in flight and registers (R52, R53, R76 to R81) -/

/-- R76, R79: x0 and y0 read zero, p0 reads true and m0 all ones, whatever is written; every other register reads what was
written to it and nothing else changes. -/
def Obligations.RegisterReadAfterWrite : Prop :=
  ∀ (q : Regs) (d : Dest) (v : Vec),
    (∀ r : Reg, ((q.put d v).getX r) = if r = 0 then 0 else if d = .x r then v.setWidth 64 else q.getX r) ∧
    (∀ r : Reg, ((q.put d v).getY r) = if r = 0 then 0 else if d = .y r then v.setWidth 64 else q.getY r) ∧
    (∀ r : Reg, r.toNat < 24 → ((q.put d v).getV r) = if d = .v r then v else q.getV r) ∧
    (∀ r : BitVec 3, ((q.put d v).getP r) = if r = 0 then true else if d = .p r then v.getLsbD 0 else q.getP r) ∧
    (∀ r : BitVec 3, ((q.put d v).getM r) = if r = 0 then BitVec.allOnes 64 else if d = .m r then v.setWidth 64
      else q.getM r)

/-- R52, R53, R76: giving a result changes nothing but the issuing thread's list of results in flight, and, for a push, the
reserved port entry; no register, flag, control register, other thread or byte of memory changes. -/
def Obligations.PushedResultFrame : Prop :=
  ∀ (s : State) (t : Thread) (d : Dest) (v mask : Vec) (lat : Nat) (fl : BitVec 5),
    s.cur.slot < 8 → s.cth = some t →
    let s' := pushFlight s d v mask lat fl
    (∃ t', s'.cth = some t' ∧ t'.pipe.flights = t.pipe.flights ++ [⟨s.sched.nextId, d, v, mask, lat, fl⟩] ∧
      t'.regs = t.regs ∧ t'.ctl = t.ctl ∧ t'.tok = t.tok ∧ t'.orderQ = t.orderQ ∧ t'.task = t.task ∧ t'.life = t.life ∧
      t'.reports = t.reports) ∧
    s'.mem = s.mem ∧ s'.regions = s.regions ∧ s'.cur = s.cur ∧ s'.dies = s.dies ∧ s'.bar = s.bar ∧ s'.net = s.net ∧
    (∀ n k, (n ≠ s.cur.core ∨ k ≠ s.cur.slot) → s'.thread n k = s.thread n k) ∧
    (∀ n, (s'.core n).mx = (s.core n).mx ∧ (s'.core n).net = (s.core n).net ∧ (s'.core n).rcd = (s.core n).rcd ∧
      (s'.core n).cellar = (s.core n).cellar ∧ (s'.core n).cache = (s.core n).cache)

/-- R52, R53, R87: in each turn of a slot the results whose turns are used up land, in the order in which they issued, into
the register bits they write and the sticky flags; every other result comes one turn nearer, and nothing else of the
thread's registers or memory changes. -/
def Obligations.ResultsLandInTheirTurn : Prop :=
  ∀ (s : State) (n k : Nat) (t : Thread), k < 8 → s.thread n k = some t →
    (∀ f ∈ t.pipe.flights, ∀ r, f.dest ≠ .port r) →
    let landed := t.pipe.flights.filter (fun f => f.rem ≤ 1)
    let ths : Word := landed.foldl (fun (w : Word) f => w ||| ((f.flags.setWidth 64 : Word) <<< 8)) t.ctl.ths
    ∃ t', (landTurn s n k).thread n k = some t' ∧ (landTurn s n k).mem = s.mem ∧
      t'.pipe.flights = (t.pipe.flights.filter (fun f => 1 < f.rem)).map (fun f => { f with rem := f.rem - 1 }) ∧
      t'.regs = landed.foldl (fun q f => q.putMasked f.dest f.val f.mask) t.regs ∧
      t'.ctl = { t.ctl with ths := ths } ∧ t'.tok = t.tok ∧ t'.orderQ = t.orderQ ∧
      ∀ m j, (m ≠ n ∨ j ≠ k) → (landTurn s n k).thread m j = s.thread m j

/-- R79, R101: a scalar, memory or control syllable whose predicate guard is false completes and does nothing, and so does a
vector syllable under the guard that never holds. (A privileged form in user mode and an immediate shift by 64 or more trap
before their guard counts.) -/
def Obligations.FalseGuardSuppresses : Prop :=
  ∀ (s : State) (t : Thread) (i : Instr) (g : Guard), s.cth = some t → guardOf i = some g →
    (guardHolds t.regs g = false → posOf i ≠ some .va → posOf i ≠ some .vb → privileged t i = false →
      (∀ cl d a imm, i = .slli cl d a imm g ∨ i = .srli cl d a imm g ∨ i = .srai cl d a imm g → shiftOf s imm < 64) →
      exec i s = .next s) ∧
    (g = ⟨0, true⟩ → (posOf i = some .va ∨ posOf i = some .vb) → exec i s = .next s)

/-! ### Scalar floating point (R325, R346 to R355) -/

/-- R325, R347 to R355: the F32 syllables complete; their results are rounded by the issue-time THS.RM, fill
bits [31:0] and leave bits [63:32] zero; FCLASS, the conversions to I64 and the comparisons complete with theirs. -/
def Obligations.ScalarFloatResults : Prop :=
  ∀ (s : State) (t : Thread) (cl : Cl) (d a b : Reg) (pd : BitVec 3) (g : Guard), Issues s t g →
    let x := (t.regs.getS cl a).toNat % 2 ^ 32
    let y := (t.regs.getS cl b).toNat % 2 ^ 32
    let z := (t.regs.getS cl d).toNat % 2 ^ 32
    let r := Cl.reg cl d
    let rm := t.ctl.ths.toNat / 32 % 4
    let gives (i : Instr) (lat : Nat) (v : Nat × BitVec 5) : Prop := Gives i s r (BitVec.ofNat 64 v.1) lat v.2
    gives (.fadd cl d a b g) 2 (fAdd fmtF32 rm x y) ∧
    gives (.fsub cl d a b g) 2 (fAdd fmtF32 rm x (fNegBits fmtF32 y)) ∧
    gives (.fmul cl d a b g) 2 (fMul fmtF32 rm x y) ∧
    gives (.ffma cl d a b g) 3 (fFma fmtF32 rm false z x y) ∧
    gives (.ffms cl d a b g) 3 (fFma fmtF32 rm true z x y) ∧
    gives (.fmin cl d a b g) 2 (fMinMax fmtF32 false x y) ∧
    gives (.fmax cl d a b g) 2 (fMinMax fmtF32 true x y) ∧
    gives (.fdiv cl d a b g) 14 (fDiv fmtF32 rm x y) ∧
    gives (.fsqrt cl d a g) 14 (fSqrt fmtF32 rm x) ∧
    gives (.frsq cl d a g) 4 (fRsqrt fmtF32 rm x) ∧
    gives (.fabs cl d a g) 2 (x % 2 ^ 31, 0) ∧
    gives (.fneg cl d a g) 2 ((x + 2 ^ 31) % 2 ^ 32, 0) ∧
    gives (.fcvtFi cl d a g) 2 (intToF fmtF32 rm (t.regs.getS cl a).toInt) ∧
    gives (.fcvtFu cl d a g) 2 (intToF fmtF32 rm (t.regs.getS cl a).toNat) ∧
    gives (.fclass cl d a g) 2 (2 ^ fClass fmtF32 x, 0) ∧
    Gives (.fcvtIf cl d a g) s r (toI64 rm x).1 2 (toI64 rm x).2 ∧
    Gives (.fcvtIfz cl d a g) s r (toI64 1 x).1 2 (toI64 1 x).2 ∧
    GivesPred (.fcmp .eq cl pd a b g) s pd (fEq fmtF32 x y).1 2 (fEq fmtF32 x y).2 ∧
    GivesPred (.fcmp .lt cl pd a b g) s pd (fLt fmtF32 x y).1 2 (fLt fmtF32 x y).2 ∧
    GivesPred (.fcmp .le cl pd a b g) s pd (fLe fmtF32 x y).1 2 (fLe fmtF32 x y).2 ∧
    GivesPred (.fcmp .un cl pd a b g) s pd (fUn fmtF32 x y).1 2 (fUn fmtF32 x y).2

/-- R132 to R134, R348 to R350: FCLASS gives the one bit of its operand's class; FCVT.IF rounds by THS.RM and FCVT.IFZ toward zero,
to the integer of the exact value, with NX where it is inexact, the ends of I64 with NV outside its range, and 0 with NV for a
NaN; FCMP compares by value, with the infinities beyond every number, and raises NV as its condition says. Values are counted in
units of 2^-149, an infinity as 2^300 of them. -/
def Obligations.FloatClassCompareAndConvert : Prop :=
  ∀ (s : State) (t : Thread) (cl : Cl) (d a b : Reg) (pd : BitVec 3) (g : Guard), Issues s t g →
    let x := (t.regs.getS cl a).toNat % 2 ^ 32
    let y := (t.regs.getS cl b).toNat % 2 ^ 32
    let r := Cl.reg cl d
    let expo (z : Nat) : Nat := z / 2 ^ 23 % 256
    let frac (z : Nat) : Nat := z % 2 ^ 23
    let minus (z : Nat) : Bool := z.testBit 31
    let nan (z : Nat) : Bool := expo z = 255 && frac z ≠ 0
    let snan (z : Nat) : Bool := nan z && frac z < 2 ^ 22
    let size (z : Nat) : Int := if expo z = 255 then 2 ^ 300 else if expo z = 0 then frac z else (2 ^ 23 + frac z) * 2 ^ (expo z - 1)
    let value (z : Nat) : Int := if minus z then -(size z) else size z
    let cls : Nat :=
      if nan x then (if snan x then 8 else 9)
      else if expo x = 255 then (if minus x then 0 else 7)
      else if expo x ≠ 0 then (if minus x then 1 else 6)
      else if frac x ≠ 0 then (if minus x then 2 else 5)
      else (if minus x then 3 else 4)
    let whole (rm : Nat) : Int × Bool :=
      let q := value x / 2 ^ 149
      let part := value x % 2 ^ 149
      let up : Bool := match rm with
        | 0 => 2 ^ 148 < part || (part = 2 ^ 148 && q % 2 = 1)
        | 1 => value x < 0 && part ≠ 0
        | 2 => false
        | _ => part ≠ 0
      (if up then q + 1 else q, part ≠ 0)
    let conv (rm : Nat) : Int × BitVec 5 :=
      if nan x then (0, fNV)
      else if (whole rm).1 < -(2 ^ 63) then (-(2 ^ 63), fNV)
      else if 2 ^ 63 - 1 < (whole rm).1 then (2 ^ 63 - 1, fNV)
      else ((whole rm).1, if (whole rm).2 then fNX else 0)
    let rm := t.ctl.ths.toNat / 32 % 4
    let real : Bool := !nan x && !nan y
    let signalling : BitVec 5 := if snan x || snan y then fNV else 0
    let anyNan : BitVec 5 := if nan x || nan y then fNV else 0
    Gives (.fclass cl d a g) s r (BitVec.ofNat 64 (2 ^ cls)) 2 0 ∧
    Gives (.fcvtIf cl d a g) s r (BitVec.ofInt 64 (conv rm).1) 2 (conv rm).2 ∧
    Gives (.fcvtIfz cl d a g) s r (BitVec.ofInt 64 (conv 1).1) 2 (conv 1).2 ∧
    GivesPred (.fcmp .eq cl pd a b g) s pd (real && value x = value y) 2 signalling ∧
    GivesPred (.fcmp .lt cl pd a b g) s pd (real && value x < value y) 2 anyNan ∧
    GivesPred (.fcmp .le cl pd a b g) s pd (real && value x ≤ value y) 2 anyNan ∧
    GivesPred (.fcmp .un cl pd a b g) s pd (!real) 2 signalling

/-- R126: an operation of F32 with a NaN operand gives the canonical NaN 0x7FC00000, with NV exactly when an operand
is a signalling NaN. R124, R128, R129: a value that a format represents is rounded to itself without a flag, in every
format and rounding mode, and every rounded result is a code of the format. R128, R130, R347: of finite operands the sum and the
product are the exact sum, in units of the lower exponent, and the exact product, rounded once; an exact sum of zero has the sign
that its operands agree on, or else minus when rounding down. R128 to R130: a value is rounded in its direction to the weight of the last
kept bit, or overflows, with NX, UF and OF. R351, R355, R420, R353, R134: quotients, square roots, reciprocals, fused sums and integers are
the exact result rounded once. R131, R129: infinities and zeros among the operands give infinities, signed zeros, or the canonical NaN with
NV, and DZ for a division by zero. R133: FMIN and FMAX order the codes by value, with -0 below +0, and pass a NaN over. -/
def Obligations.NanAndRepresentableResults : Prop :=
  (∀ rm a b d : Nat, (fmtF32.decode a).isNan = true →
     let s1 := (fmtF32.decode a).isSnan
     let s2 := (fmtF32.decode a).isSnan || (fmtF32.decode b).isSnan
     let nan (nv : Bool) : Nat × BitVec 5 := (0x7FC00000, if nv then fNV else 0)
     fAdd fmtF32 rm a b = nan s2 ∧ fMul fmtF32 rm a b = nan s2 ∧ fDiv fmtF32 rm a b = nan s2 ∧
       fAdd fmtF32 rm b a = nan s2 ∧ fMul fmtF32 rm b a = nan s2 ∧ fDiv fmtF32 rm b a = nan s2 ∧
       fSqrt fmtF32 rm a = nan s1 ∧ fRsqrt fmtF32 rm a = nan s1 ∧
       fFma fmtF32 rm false d a b = nan (s2 || (fmtF32.decode d).isSnan)) ∧
  (∀ f ∈ [fmtF32, fmtBF16, fmtF16, fmtE4M3, fmtE5M2], ∀ (rm c : Nat) (neg : Bool) (m : Nat) (e : Int),
     (f.decode c = .fin neg m e → c < 2 * f.signBit → m ≠ 0 → roundTo f rm neg m e false = (c, 0)) ∧
     ∀ sticky, (roundTo f rm neg m e sticky).1 < 2 * f.signBit) ∧
  (∀ f ∈ [fmtF32, fmtBF16, fmtF16, fmtE4M3, fmtE5M2], ∀ (rm a b : Nat) (n1 n2 : Bool) (m1 m2 : Nat) (e1 e2 : Int),
     f.decode a = .fin n1 m1 e1 → f.decode b = .fin n2 m2 e2 →
     let low := min e1 e2
     let units (n : Bool) (m : Nat) (e : Int) : Int := (if n then -1 else 1) * (m * 2 ^ (e - low).toNat)
     let sum := units n1 m1 e1 + units n2 m2 e2
     (sum ≠ 0 → fAdd f rm a b = roundTo f rm (decide (sum < 0)) sum.natAbs low false) ∧
     (sum = 0 → fAdd f rm a b = (if (if n1 = n2 then n1 else decide (rm = 2)) then f.signBit else 0, 0)) ∧
     fMul f rm a b = roundTo f rm (n1 != n2) (m1 * m2) (e1 + e2) false) ∧
  (∀ f ∈ [fmtF32, fmtBF16, fmtF16, fmtE4M3, fmtE5M2], ∀ (rm m : Nat) (neg : Bool) (e : Int) (more : Bool), m ≠ 0 →
     (more = true → 2 ^ (f.fb + 2) ≤ m) → RoundsTo f rm neg m e more (roundTo f rm neg m e more)) ∧
  (∀ f ∈ [fmtF32, fmtBF16, fmtF16, fmtE4M3, fmtE5M2], ∀ (rm a b d : Nat) (neg : Bool) (v : Int),
     let sign (n : Bool) (c : Nat) : Nat := if n then f.signBit + c else c
     let nan : Nat × BitVec 5 := (f.nanCode, fNV)
     let inf (n : Bool) (fl : BitVec 5) : Nat × BitVec 5 := (if f = fmtE4M3 then 0x7F else sign n f.infCode, fl)
     let zero (n : Bool) : Nat × BitVec 5 := (sign n 0, 0)
     intToF f rm v = (if v = 0 then zero false else roundTo f rm (decide (v < 0)) v.natAbs 0 false) ∧
     (∀ n m e, f.decode a = .fin n m e →
       (m = 0 → fSqrt f rm a = zero n ∧ fRsqrt f rm a = inf n fDZ ∧ fRcp f rm a = inf n fDZ) ∧
       (m ≠ 0 → n = true → fSqrt f rm a = nan ∧ fRsqrt f rm a = nan) ∧
       (m ≠ 0 → (∃ q k : Nat, 2 ^ (f.fb + 2) ≤ q ∧ q * m ≤ 2 ^ k ∧ 2 ^ k < (q + 1) * m ∧
         fRcp f rm a = roundTo f rm n q (-e - (k : Int)) (decide (q * m ≠ 2 ^ k)))) ∧
       (m ≠ 0 → n = false → ∀ m' e', e' % 2 = 0 → ((m' = m ∧ e' = e) ∨ (m' = 2 * m ∧ e' = e - 1)) →
         (∃ r k : Nat, 2 ^ (f.fb + 2) ≤ r ∧ r * r ≤ m' * 2 ^ (2 * k) ∧ m' * 2 ^ (2 * k) < (r + 1) * (r + 1) ∧
           fSqrt f rm a = roundTo f rm false r (e' / 2 - (k : Int)) (decide (r * r ≠ m' * 2 ^ (2 * k)))) ∧
         (∃ r k : Nat, 2 ^ (f.fb + 2) ≤ r ∧ r * r * m' ≤ 2 ^ (2 * k) ∧ 2 ^ (2 * k) < (r + 1) * (r + 1) * m' ∧
           fRsqrt f rm a = roundTo f rm false r (-(e' / 2) - (k : Int)) (decide (r * r * m' ≠ 2 ^ (2 * k))))) ∧
       (∀ n2 m2 e2, f.decode b = .fin n2 m2 e2 →
         (m2 = 0 → fDiv f rm a b = if m = 0 then nan else inf (n != n2) fDZ) ∧
         (m2 ≠ 0 → m = 0 → fDiv f rm a b = zero (n != n2)) ∧
         (m2 ≠ 0 → m ≠ 0 → ∃ q k : Nat, 2 ^ (f.fb + 2) ≤ q ∧ q * m2 ≤ m * 2 ^ k ∧ m * 2 ^ k < (q + 1) * m2 ∧
           fDiv f rm a b = roundTo f rm (n != n2) q (e - e2 - (k : Int)) (decide (q * m2 ≠ m * 2 ^ k))) ∧
         ∀ nd md ed, f.decode d = .fin nd md ed →
           let np := ((n != n2) != neg)
           let low := min ed (e + e2)
           let units (n : Bool) (m : Nat) (e : Int) : Int := (if n then -1 else 1) * (m * 2 ^ (e - low).toNat)
           let sum := units nd md ed + units np (m * m2) (e + e2)
           (sum ≠ 0 → fFma f rm neg d a b = roundTo f rm (decide (sum < 0)) sum.natAbs low false) ∧
           (sum = 0 → fFma f rm neg d a b = zero (if nd = np then nd else decide (rm = 2))))) ∧
     (∀ n, f.decode a = .inf n →
       fSqrt f rm a = (if n then nan else inf false 0) ∧ fRsqrt f rm a = (if n then nan else zero false) ∧ fRcp f rm a = zero n ∧
       (∀ n', f.decode b = .inf n' → fAdd f rm a b = (if n = n' then inf n 0 else nan) ∧ fMul f rm a b = inf (n != n') 0 ∧
         fDiv f rm a b = nan) ∧
       (∀ n' m' e', f.decode b = .fin n' m' e' → fAdd f rm a b = inf n 0 ∧ fAdd f rm b a = inf n 0 ∧
         fMul f rm a b = (if m' = 0 then nan else inf (n != n') 0) ∧ fMul f rm b a = (if m' = 0 then nan else inf (n != n') 0) ∧
         fDiv f rm a b = inf (n != n') 0 ∧ fDiv f rm b a = zero (n != n')) ∧
       (∀ n', (f.decode b = .inf n' ∨ ∃ m' e', f.decode b = .fin n' m' e' ∧ m' ≠ 0) →
         let np := ((n != n') != neg)
         ((∃ m' e' nd, f.decode d = .fin nd m' e') → fFma f rm neg d a b = inf np 0 ∧ fFma f rm neg d b a = inf np 0) ∧
         ∀ nd, f.decode d = .inf nd → fFma f rm neg d a b = (if nd = np then inf np 0 else nan) ∧
           fFma f rm neg d b a = (if nd = np then inf np 0 else nan)) ∧
       (∀ n' e', f.decode b = .fin n' 0 e' → (f.decode d).isNan = false → fFma f rm neg d a b = nan ∧ fFma f rm neg d b a = nan)) ∧
     (∀ nd, f.decode d = .inf nd → (∃ n m e, f.decode a = .fin n m e) → (∃ n m e, f.decode b = .fin n m e) →
       fFma f rm neg d a b = inf nd 0) ∧
     (a < 2 * f.signBit → b < 2 * f.signBit →
       let na := (f.decode a).isNan
       let nb := (f.decode b).isNan
       let fl : BitVec 5 := if (f.decode a).isSnan || (f.decode b).isSnan then fNV else 0
       let key (c : Nat) : Int := if f.signBit ≤ c then -((c : Int) - f.signBit) - 1 else c
       (na = true → nb = true → fMinMax f neg a b = (f.nanCode, fl)) ∧
       (na = true → nb = false → fMinMax f neg a b = (b, fl)) ∧ (na = false → nb = true → fMinMax f neg a b = (a, fl)) ∧
       (na = false → nb = false → fMinMax f false a b = (if key a ≤ key b then a else b, 0) ∧
         fMinMax f true a b = (if key a ≤ key b then b else a, 0))))

/-! ### Vectors (R402 to R434) -/

/-- R402, R79, R53: a vector joined from lanes reads back lane by lane, and a landing under a lane mask writes the enabled
lanes and keeps the others. -/
def Obligations.LanesReadBackAndMasked : Prop :=
  ∀ w n : Nat, (w = 8 ∧ n = 64) ∨ (w = 16 ∧ n = 32) ∨ (w = 32 ∧ n = 16) →
    ∀ (f : Nat → Nat) (q : Regs) (g : Guard) (old : Vec) (i : Nat), i < n →
      laneOf w (ofLanes w ((List.range n).map f)) i = f i % 2 ^ w ∧
      laneOf w (blend old (ofLanes w ((List.range n).map f)) (laneMask q g w n)) i =
        if laneOn q g i then f i % 2 ^ w else laneOf w old i

/-- R408, R409, R416, R432, R135, R427, R433: the two-source VINT syllables, VDOT4, VSEL and VPERM complete, lane by lane. -/
def Obligations.VectorIntegerResults : Prop :=
  ∀ (s : State) (t : Thread) (et : Ety) (d a b : Reg) (mf : BitVec 3) (g : Guard), s.cth = some t → portsReady s t [a, b] (some d) = true →
    let s' := [a, b].foldl popPort s
    let w := laneBits et
    let n := laneCount et
    let x (i : Nat) : Nat := laneOf w (vecOf s' t a) i
    let y (i : Nat) : Nat := laneOf w (vecOf s' t b) i
    let z (i : Nat) : Nat := laneOf w (vecOf s' t d) i
    let sx (i : Nat) : Int := signedLane w (x i)
    let sy (i : Nat) : Int := signedLane w (y i)
    let gives (i : Instr) (lat : Nat) (f : Nat → Nat) : Prop := GivesLanes i s t [a, b] d w n lat g f 0
    gives (.vadd et d a b g) 1 (fun i => (x i + y i) % 2 ^ w) ∧
    gives (.vsub et d a b g) 1 (fun i => (x i + 2 ^ w - y i) % 2 ^ w) ∧
    gives (.vmul et d a b g) 2 (fun i => x i * y i % 2 ^ w) ∧
    gives (.vmulh et d a b g) 2 (fun i => (sx i * sy i / 2 ^ w % 2 ^ w).toNat) ∧
    gives (.vmac et d a b g) 2 (fun i => (z i + x i * y i) % 2 ^ w) ∧
    gives (.vmin et d a b g) 1 (fun i => if sx i ≤ sy i then x i else y i) ∧
    gives (.vmax et d a b g) 1 (fun i => if sx i ≤ sy i then y i else x i) ∧
    gives (.vshl et d a b g) 1 (fun i => if y i < w then x i * 2 ^ y i % 2 ^ w else 0) ∧
    gives (.vshr et d a b g) 1 (fun i => (sx i / 2 ^ (if y i < w then y i else w) % 2 ^ w).toNat) ∧
    gives (.vrshr et d a b g) 2 (fun i => (roundShift w (sx i) (sy i) % 2 ^ w).toNat) ∧
    gives (.vand et d a b g) 1 (fun i => x i &&& y i) ∧
    gives (.vor et d a b g) 1 (fun i => x i ||| y i) ∧
    gives (.vxor et d a b g) 1 (fun i => x i ^^^ y i) ∧
    gives (.vsel et d mf a b g) 1 (fun i => if (t.regs.getM mf).getLsbD i then x i else y i) ∧
    gives (.vperm et d a b g) 1 (fun i => x (y i % n)) ∧
    GivesLanes (.vdot4 d a b g) s t [a, b] d 32 16 2 g (fun i =>
      ((laneOf 32 (vecOf s' t d) i + ((List.range 4).map (fun j =>
        signedLane 8 (laneOf 8 (vecOf s' t a) (4 * i + j)) * signedLane 8 (laneOf 8 (vecOf s' t b) (4 * i + j)))).sum) %
          2 ^ 32).toNat) 0

/-- R408, R409, R412, R414, R415, R417, R426, R428, R431, R434, R367: one-source and scalar-operand vector syllables complete,
lane by lane, conversions and decoded blocks among them. Where the spec leaves a point of this open, the model's choice or
reading stands (log entry 59). -/
def Obligations.VectorOneSourceResults : Prop :=
  (decode .vb 0x34220000 = .ok (.vpopc .i8 1 2 ⟨0, false⟩) ∧ decode .vb 0x14220100 = .ok (.vbcast .i16 1 2 ⟨0, false⟩) ∧
    decode .vb 0x30400640 = .ok (.vmovi 2 100 ⟨0, false⟩) ∧ decode .vb 0x303FFFF0 = .ok (.vmovi 1 (-1) ⟨0, false⟩) ∧
    decode .vb 0x10221B00 = .ok (.vslide .f32 1 2 3 ⟨0, false⟩) ∧
    ∀ e, e < 8 → ((decode .vb (0x34220000 + e * 256)).isOk = decide (e ≤ 2) ∧
      (decode .vb (0x14220000 + e * 256)).isOk = decide (e ≤ 5) ∧ (decode .vb (0x10221800 + e * 256)).isOk = decide (e ≤ 5))) ∧
  ∀ (s : State) (t : Thread) (et dt : Ety) (sat hi : Bool) (d a b : Reg) (imm : BitVec 17) (mr : BitVec 3) (g : Guard),
    s.cth = some t → portsReady s t [a] (some d) = true →
    let s' := popPort s a
    let w := laneBits et
    let n := laneCount et
    let x (i : Nat) : Nat := laneOf w (vecOf s' t a) i
    let k := (t.regs.getX b).toNat % 2 ^ w
    let c (i : Nat) : Nat × BitVec 5 := if i < n then convert et dt sat (t.ctl.ths.toNat / 32 % 4) (x i) else (0, 0)
    GivesLanes (.vcvt et dt sat d a g) s t [a] d (laneBits dt) (laneCount dt) 2 g (fun i => (c i).1)
      (laneFlags t.regs g ((List.range (laneCount dt)).map c)) ∧
    GivesLanes (.vdeq et hi d a g) s t [a] d w n 2 g
      (fun i => k4Code (fmtOf et) (k4Element (vecOf s' t a).toNat (if hi then i + 16 else i))) 0 ∧
    GivesLanes (.vabs et d a g) s t [a] d w n 1 g (fun i => (signedLane w (x i)).natAbs % 2 ^ w) 0 ∧
    GivesLanes (.vadds et d a b g) s t [a] d w n 1 g (fun i => (x i + k) % 2 ^ w) 0 ∧
    GivesLanes (.vmuls et d a b g) s t [a] d w n 2 g (fun i => x i * k % 2 ^ w) 0 ∧
    GivesLanes (.vfabs et d a g) s t [a] d w n 2 g (fun i => x i % (fmtOf et).signBit) 0 ∧
    GivesLanes (.vfneg et d a g) s t [a] d w n 2 g (fun i => fNegBits (fmtOf et) (x i)) 0 ∧
    GivesLanes (.vpopc et d a g) s t [a] d w n 1 g (fun i => (List.range w).countP (fun j => (x i).testBit j)) 0 ∧
    GivesLanes (.vrng d a b g) s t [a] d 32 16 2 g
      (fun i => rngWord (t.regs.getX b).toNat (laneOf 32 (vecOf s' t a) i)) 0 ∧
    GivesLanes (.vslide et d a b g) s t [a] d w n 1 g (fun i =>
      let j : Int := (i : Int) - (t.regs.getX b).toInt
      if 0 ≤ j ∧ j < n then x j.toNat else 0) 0 ∧
    (∃ v : Word, exec (.vext et d a b) s = .next (pushFlight s' (.x d) (v.setWidth 512) (BitVec.allOnes 512) 2 0) ∧
      let e := x ((t.regs.getX b).toNat % n)
      if Ety.isInt et then v.toInt = signedLane w e else v.toNat = e) ∧
    (portsReady s t [] (some d) = true →
      GivesLanes (.vbcast et d a g) s t [] d w n 1 g (fun _ => (t.regs.getX a).toNat % 2 ^ w) 0 ∧
      GivesLanes (.vmovi d imm g) s t [] d 32 16 1 g (fun _ => (imm.signExtend 32).toNat) 0) ∧
    Gives (.mcnt d mr) s (.x d) (BitVec.ofNat 64 ((List.range 64).countP (fun i => (t.regs.getM mr).getLsbD i))) 1 0

/-- R418 to R420, R131, R413, R429, R430: the VFP syllables complete: each lane is one scalar operation in the lane's format, and
the flags are those of the enabled lanes; VCMP, the quantising syllables and VRED complete with their results. Where the spec
leaves a point of this open, the model's choice or reading stands (log entry 59). -/
def Obligations.VectorFloatResults : Prop :=
  ∀ (s : State) (t : Thread) (et : Ety) (cc : VCmp) (kt : BitVec 2) (op : RedOp) (d a b : Reg) (md : BitVec 3) (g : Guard),
    s.cth = some t →
    let w := laneBits et
    let n := laneCount et
    let f := fmtOf et
    let rm := t.ctl.ths.toNat / 32 % 4
    let gives (i : Instr) (srcs : List Reg) (lat : Nat) (r : Nat → Nat × BitVec 5) : Prop :=
      GivesLanes i s t srcs d w n lat g (fun i => (r i).1) (laneFlags t.regs g ((List.range n).map r))
    (portsReady s t [a, b] (some d) = true →
      let s' := [a, b].foldl popPort s
      let x (i : Nat) : Nat := laneOf w (vecOf s' t a) i
      let y (i : Nat) : Nat := laneOf w (vecOf s' t b) i
      let z (i : Nat) : Nat := laneOf w (vecOf s' t d) i
      gives (.vfadd et d a b g) [a, b] 2 (fun i => fAdd f rm (x i) (y i)) ∧
      gives (.vfsub et d a b g) [a, b] 2 (fun i => fAdd f rm (x i) (fNegBits f (y i))) ∧
      gives (.vfmul et d a b g) [a, b] 2 (fun i => fMul f rm (x i) (y i)) ∧
      gives (.vffma et d a b g) [a, b] 3 (fun i => fFma f rm false (z i) (x i) (y i)) ∧
      gives (.vfmin et d a b g) [a, b] 2 (fun i => fMinMax f false (x i) (y i)) ∧
      gives (.vfmax et d a b g) [a, b] 2 (fun i => fMinMax f true (x i) (y i))) ∧
    (portsReady s t [a] (some d) = true →
      let s' := popPort s a
      let x (i : Nat) : Nat := laneOf w (vecOf s' t a) i
      let z (i : Nat) : Nat := laneOf w (vecOf s' t d) i
      let k := (t.regs.getX b).toNat % 2 ^ w
      gives (.vfrcp et d a g) [a] 4 (fun i => fRcp f rm (x i)) ∧
      gives (.vfrsq et d a g) [a] 4 (fun i => fRsqrt f rm (x i)) ∧
      gives (.vfmuls et d a b g) [a] 3 (fun i => fMul f rm (x i) k) ∧
      gives (.vffmas et d a b g) [a] 3 (fun i => fFma f rm false (z i) (x i) k)) ∧
    (portsReady s t [a, b] none = true → g ≠ ⟨0, true⟩ →
      let s' := [a, b].foldl popPort s
      let c (i : Nat) : Nat × BitVec 5 :=
        let r := vcmpLane cc et (laneOf w (vecOf s' t a) i) (laneOf w (vecOf s' t b) i)
        (if r.1 then 1 else 0, r.2)
      exec (.vcmp cc et md a b g) s = .next (pushFlight s' (.m md) (ofLanes 1 ((List.range n).map (fun i => (c i).1)))
        (laneMask t.regs g 1 n ||| (BitVec.allOnes 512 <<< n)) 1 (laneFlags t.regs g ((List.range n).map c)))) ∧
    (portsReady s t (if et = .f32 then [a, b] else [a]) (some d) = true → g ≠ ⟨0, true⟩ →
      let s' := (if et = .f32 then [a, b] else [a]).foldl popPort s
      let l := blockOf et (vecOf s' t a) (vecOf s' t b)
      let some' := (List.range 64).any (laneOn t.regs g)
      let block (i : Instr) (q : K4Block) : Prop :=
        exec i s = .next (pushFlight s' (vreg d) (ofLanes 8 (k4Bytes q)) (laneMask t.regs g 8 64) 2
          ((if some' && l.any (fun e => e = .nan) then fNV else 0) ||| (if some' && !q.exact' then fNX else 0)))
      block (.vquant et kt d a b g) (k4Quantise kt.toNat l) ∧ block (.vquantAuto et d a b g) (k4Auto l)) ∧
    (portsReady s t [a] (some d) = true → g ≠ ⟨0, true⟩ →
      let s' := popPort s a
      let q := redTree 6 (redPair op et rm) ((List.range n).map (fun i => if laneOn t.regs g i then some (laneOf w (vecOf s' t a) i) else none))
      exec (.vred op et d a g) s = .next (pushFlight s' (vreg d) (BitVec.ofNat 512 (redValue op et (q.1.getD (redIdentity op et))))
        (BitVec.allOnes 512) 2 q.2))

/-- R413, R414, R415, R427, R429, R430, R433, R101: compares, selects, permutes, conversions, blocks and reductions complete with
their results and flags; under the guard that never holds they do nothing. Where the spec leaves a point of this open, the
model's choice or reading stands (log entry 59). -/
def Obligations.VectorMoveConvertAndReduceResults : Prop :=
  decode .vb 0x0C221800 = .ok (.vperm .i8 1 2 3 ⟨0, false⟩) ∧
  (∀ e, e < 8 → (decode .vb (0x0C221800 + e * 256)).isOk = decide (e ≤ 2)) ∧
  ∀ (s : State) (t : Thread) (et dt : Ety) (cc : VCmp) (sat hi : Bool) (kt : BitVec 2) (d a b : Reg) (md mf : BitVec 3)
    (op : RedOp) (g : Guard), s.cth = some t →
    let w := laneBits et
    let n := laneCount et
    let on (i : Nat) : Bool := laneOn t.regs g i
    let gives (i : Instr) (u : State) : Prop := exec i s = .next (if g = ⟨0, true⟩ then s else u)
    (portsReady s t [a, b] none = true →
      let s' := [a, b].foldl popPort s
      let r (i : Nat) : Bool × BitVec 5 := vcmpLane cc et (laneOf w (vecOf s' t a) i) (laneOf w (vecOf s' t b) i)
      ∃ v mask, gives (.vcmp cc et md a b g) (pushFlight s' (.m md) v mask 1
          (laneFlags t.regs g ((List.range n).map (fun i => (if (r i).1 then 1 else 0, (r i).2))))) ∧
        ∀ i, i < 512 → (i < n → v.getLsbD i = (r i).1 ∧ mask.getLsbD i = on i) ∧
          (n ≤ i → v.getLsbD i = false ∧ mask.getLsbD i = true)) ∧
    (portsReady s t [a, b] (some d) = true →
      let s' := [a, b].foldl popPort s
      let x (i : Nat) : Nat := laneOf w (vecOf s' t a) i
      let y (i : Nat) : Nat := laneOf w (vecOf s' t b) i
      GivesLanes (.vsel et d mf a b g) s t [a, b] d w n 1 g (fun i => if (t.regs.getM mf).getLsbD i then x i else y i) 0 ∧
      GivesLanes (.vperm et d a b g) s t [a, b] d w n 1 g (fun i => x (y i % n)) 0) ∧
    (portsReady s t [a] (some d) = true →
      let s' := popPort s a
      let x (i : Nat) : Nat := laneOf w (vecOf s' t a) i
      let wd := laneBits dt
      let c (i : Nat) : Nat × BitVec 5 := if i < n then convert et dt sat (t.ctl.ths.toNat / 32 % 4) (x i) else (0, 0)
      GivesLanes (.vcvt et dt sat d a g) s t [a] d wd (laneCount dt) 2 g (fun i => (c i).1)
        (laneFlags t.regs g ((List.range (laneCount dt)).map c)) ∧
      (Ety.isInt et = true → Ety.isInt dt = true → ∀ i, i < n →
        let v := signedLane w (x i)
        c i = (((if sat then max (-(2 ^ (wd - 1))) (min (2 ^ (wd - 1) - 1) v) else v) % 2 ^ wd).toNat, 0)) ∧
      GivesLanes (.vdeq et hi d a g) s t [a] d w n 2 g
        (fun i => k4Code (fmtOf et) (k4Element (vecOf s' t a).toNat (if hi then i + 16 else i))) 0 ∧
      ∃ (r : Option Nat) (fl : BitVec 5),
        (r, fl) = redTree 6 (redPair op et (t.ctl.ths.toNat / 32 % 4)) ((List.range n).map (fun i => if on i then some (x i) else none)) ∧
        gives (.vred op et d a g) (pushFlight s' (vreg d) (BitVec.ofNat 512 (redValue op et (r.getD (redIdentity op et))))
          (BitVec.allOnes 512) 2 fl) ∧
        ((∀ i, i < n → on i = false) → r = none ∧ fl = 0) ∧
        (∀ i, i < n → on i = true → (∀ j, j < n → on j = true → j = i) → r = some (x i) ∧ fl = 0) ∧
        (op = .or → fl = 0 ∧ r.getD 0 = (List.range n).foldl (fun acc i => if on i then acc ||| x i else acc) 0) ∧
        (Ety.isInt et = true → fl = 0 ∧
          (op = .sum → r.getD 0 = ((List.range n).map (fun i => if on i then x i else 0)).sum % 2 ^ w) ∧
          ∀ i v, i < n → on i = true → r = some v →
            (op = .min ∨ op = .max → ∃ j, j < n ∧ on j = true ∧ v = x j) ∧
            (op = .min → signedLane w v ≤ signedLane w (x i)) ∧ (op = .max → signedLane w (x i) ≤ signedLane w v))) ∧
    (portsReady s t (if et = .f32 then [a, b] else [a]) (some d) = true →
      let s' := (if et = .f32 then [a, b] else [a]).foldl popPort s
      let l := blockOf et (vecOf s' t a) (vecOf s' t b)
      let some' := (List.range 64).any on
      let flags (q : K4Block) : BitVec 5 :=
        (if some' && l.any (fun e => e = .nan) then fNV else 0) ||| (if some' && !q.exact' then fNX else 0)
      let block (i : Instr) (q : K4Block) : Prop :=
        gives i (pushFlight s' (vreg d) (ofLanes 8 (k4Bytes q)) (laneMask t.regs g 8 64) 2 (flags q))
      block (.vquant et kt d a b g) (k4Quantise kt.toNat l) ∧ block (.vquantAuto et d a b g) (k4Auto l) ∧
        (k4Auto l).err ≤ (k4Quantise 0 l).err ∧
        ((∀ e ∈ l, ∀ neg, e ≠ .inf neg) → ∀ ty, ty < 4 → (k4Auto l).err ≤ (k4Quantise ty l).err))

/-! ### Memory (R171 to R194, R356 to R364, R397 to R400, R421 to R425) -/

/-- R6, R205: reading after writing gives the bytes written, and every other byte reads as before. Where the spec leaves a point
of this open, the model's choice or reading stands (log entry 1). -/
def Obligations.MemoryReadAfterWrite : Prop :=
  ∀ (m : List Host.Cell) (k : Nat) (l : List Byte), Memory.wf m = true →
    Memory.wf (Memory.writeBytes m k l) = true ∧
    (∀ a, Memory.read (Memory.writeBytes m k l) a = if k ≤ a ∧ a < k + l.length then l.getD (a - k) 0 else Memory.read m a) ∧
    ∀ n v, Memory.readLE (Memory.writeLE m k n v) k n = v % 2 ^ (8 * n)

/-- R356, R362, R361, R423: an aligned class-L load completes with a result two turns later, extended as its mnemonic says,
and changes no byte of memory. R208, R361: LDACQ holds its slot until every earlier release of its thread is performed, and completes as
an acquire two turns after its issue. -/
def Obligations.ScratchpadLoadsComplete : Prop :=
  ∀ (s : State) (t : Thread) (cl : Cl) (d a : Reg) (sid : BitVec 4) (off : BitVec 7) (g : Guard), Issues s t g → s.cur.slot < 8 →
    let ea (n : Nat) : Word := eaOf s t a off n
    let v (n : Nat) : Nat := Memory.readLE s.mem (s.cur.core * 0x80000 + (ea n).toNat) n
    let r := Cl.reg cl d
    (ScratchpadAccess s (ea 1) 1 1 →
      Gives (.ldb cl d a sid off g) s r ((BitVec.ofNat 8 (v 1)).signExtend 64) 2 0 ∧
      Gives (.ldbu cl d a sid off g) s r (BitVec.ofNat 64 (v 1)) 2 0) ∧
    (ScratchpadAccess s (ea 2) 2 2 →
      Gives (.ldh cl d a sid off g) s r ((BitVec.ofNat 16 (v 2)).signExtend 64) 2 0 ∧
      Gives (.ldhu cl d a sid off g) s r (BitVec.ofNat 64 (v 2)) 2 0) ∧
    (ScratchpadAccess s (ea 4) 4 4 →
      Gives (.ldw cl d a sid off g) s r ((BitVec.ofNat 32 (v 4)).signExtend 64) 2 0 ∧
      Gives (.ldwu cl d a sid off g) s r (BitVec.ofNat 64 (v 4)) 2 0) ∧
    (ScratchpadAccess s (ea 8) 8 8 → Gives (.ldd cl d a sid off g) s r (BitVec.ofNat 64 (v 8)) 2 0 ∧
      (releasesDone t = false → exec (.ldacq cl d a sid off g) s = .next (hold s)) ∧
      (releasesDone t = true →
        let p := pushFlight s r ((BitVec.ofNat 64 (v 8)).setWidth 512) (BitVec.allOnes 512) 2 0
        ∃ u, exec (.ldacq cl d a sid off g) s = .next u ∧ u.cth = p.cth ∧ u.mem = s.mem ∧
          u.ccore.net.misses = s.ccore.net.misses ++
            [⟨p.sched.nextId, t.tid, none, false, true, some 2, 0, 0, false, 0, 0, none, [], some 0, none⟩])) ∧
    (ScratchpadAccess s (ea 64) 64 4 → portsReady s t [] (some d) = true →
      exec (.vld d a sid off g) s = .next (pushFlight s (vreg d) (BitVec.ofNat 512 (v 64)) (BitVec.allOnes 512) 2 0))

/-- R356, R397, R400, R423: an aligned class-L store writes its bytes at issue, lowest address first, and nothing else. -/
def Obligations.ScratchpadStoresComplete : Prop :=
  ∀ (s : State) (t : Thread) (cl : Cl) (d a : Reg) (sid : BitVec 4) (off : BitVec 7) (g : Guard), Issues s t g → Good s →
    let ea (n : Nat) : Word := eaOf s t a off n
    let key (n : Nat) : Nat := s.cur.core * 0x80000 + (ea n).toNat
    let v := (t.regs.getS cl d).toNat
    (ScratchpadAccess s (ea 1) 1 1 → StoresBytes (.stb cl d a sid off g) s (key 1) (leBytes v 1)) ∧
    (ScratchpadAccess s (ea 2) 2 2 → StoresBytes (.sth cl d a sid off g) s (key 2) (leBytes v 2)) ∧
    (ScratchpadAccess s (ea 4) 4 4 → StoresBytes (.stw cl d a sid off g) s (key 4) (leBytes v 4)) ∧
    (ScratchpadAccess s (ea 8) 8 8 → StoresBytes (.std cl d a sid off g) s (key 8) (leBytes v 8) ∧
      (releaseOpen s t = true → StoresBytes (.strel cl d a sid off g) s (key 8) (leBytes v 8))) ∧
    (ScratchpadAccess s (ea 64) 64 4 → d.toNat < 24 →
      StoresBytes (.vst d a sid off g) s (key 64) (leBytes (t.regs.getV d).toNat 64))

/-- R172, R251: a misaligned scalar or vector access of class L, G or M traps ALIGN with its address, and R171: an address of no
class, and class M for a form that has none, traps PRIV. Where the spec leaves a point of this open, the model's choice or
reading stands (log entry 22). -/
def Obligations.AccessChecks : Prop :=
  ∀ (s : State) (t : Thread) (n k : Nat) (f : Shape) (ea : Word),
    (ea.toNat % f.align ≠ 0 → spotOf s t n k f ea = .trap cALIGN ea) ∧
    (ea.toNat % f.align = 0 → 2 ^ 48 ≤ ea.toNat → spotOf s t n k f ea = .trap cPRIV ea) ∧
    (ea.toNat % f.align = 0 → 0x80000 ≤ ea.toNat → ea.toNat < 2 ^ 47 → f.m = none → spotOf s t n k f ea = .trap cPRIV ea) ∧
    (ea.toNat % f.align = 0 → ea.toNat + f.n ≤ 0x80000 → f.l = true → 0 < f.n → t.mode = 0 → 0x78000 < ea.toNat + f.n →
      spotOf s t n k f ea = .trap cPRIV ea) ∧
    (ea.toNat % f.align = 0 → ea.toNat + f.n ≤ 0x78000 → 0 < f.n → f.l = true → spotOf s t n k f ea = .loc ea.toNat)

/-- R364, R399, R425, R205: an access of class M that its page lets through, with the resources it needs free, completes by
joining the order queue: a load under a miss register and the pending bit of its destination, a store with its bytes. R190: LDG and
VLDG of a line in the read cache, with nothing before them that blocks them, read the line at issue and land in three turns. R183,
R184, R237, R397: so do the scalar loads of class G and the stores, to a core of this package or another; their packets depart later.
R192: an access without a translation holds its slot while the walk runs. Where the spec leaves a point of this open, the model's
choice or reading stands (log entries 19 and 24). -/
def Obligations.AccessesJoinTheQueue : Prop :=
  (∀ (s : State) (t : Thread) (wd : Width) (cl : Cl) (d a : Reg) (sid : BitVec 4) (o5 : BitVec 5) (off : BitVec 7) (g : Guard),
     Issues s t g →
     let n := Width.bytes wd
     let st := sid.toNat
     let ea := t.regs.getX a + o5.signExtend 64 * BitVec.ofNat 64 n
     let ea8 := eaOf s t a off 8
     let ea64 := eaOf s t a off 64
     let bytes (n : Nat) : List Byte := leBytes (t.regs.getS cl d).toNat n
     let wide : List Byte := leBytes (t.regs.getV d).toNat 64
     let passes (f : Shape) (e : Word) (var : Bool) (sp : Spot) : Prop :=
       spotOf s t s.cur.core s.cur.slot f e = sp ∧ blocked s t sylL f e var = false
     let page (n : Nat) (p : Perm) : Shape := ⟨n, n, false, .no, some p, none⟩
     let acquire : Shape := ⟨8, 8, true, .cluster, some .r, none⟩
     let release : Shape := ⟨8, 8, true, .tenant, some .w, none⟩
     let walk (i : Instr) (e : Word) : Prop := exec i s = .next (hold (askXlate s s.cur.core (pasidOf s t.task.rid) e.toNat))
     (∀ key, passes (page n .w) ea false (.gen key) →
       Queues (.stg wd cl d a sid o5 g) s st false false (.storeM (plainBytes key (bytes n)) ea)) ∧
     (∀ key, passes (page 64 .w) ea64 false (.gen key) → d.toNat < 24 →
       Queues (.vstg d a sid off g) s st false false (.storeM (plainBytes key wide) ea64)) ∧
     (∀ key, passes release ea8 false (.gen key) →
       Queues (.strel cl d a sid off g) s st true false (.storeM (plainBytes key (bytes 8)) ea8)) ∧
     (∀ m o peer, passes release ea8 false (.core m o peer) → Queues (.strel cl d a sid off g) s st true
       (m = s.cur.core && peer.isNone) (.remote (.store (plainBytes o (bytes 8))) m peer ea8)) ∧
     (∀ key, passes acquire ea8 true (.gen key) → QueuesLoad (.ldacq cl d a sid off g) s t (Cl.reg cl d) st false true false
       (missOf t (Cl.reg cl d) true key 8 false []) (fun id => .loadM id)) ∧
     (∀ m o peer, passes acquire ea8 true (.core m o peer) → QueuesLoad (.ldacq cl d a sid off g) s t (Cl.reg cl d) st false true
       (m = s.cur.core && peer.isNone) (missOf t (Cl.reg cl d) true 0 8 false (latOfRoute s.cur.core m peer).toList)
       (fun id => .remote (.load o 8 false id) m peer ea8)) ∧
     (t.inDomain = false →
       let reads (i : Instr) (dest : Dest) (n : Nat) (e : Word) : Prop := ∀ key, passes (page n .r) e true (.gen key) →
         (cachedLine s.ccore key = none →
           QueuesLoad i s t dest st false false false (missOf t dest false key n false []) (fun id => .loadM id)) ∧
         (∀ l, cachedLine s.ccore key = some l → poisoned s key = false → (∀ x ∈ s.ccore.net.misses, x.id ≠ s.sched.nextId) →
           (∀ q ∈ t.orderQ, q.id ≠ s.sched.nextId ∧
             blocks q ⟨s.sched.nextId, st, false, false, false, false, false, .loadM s.sched.nextId⟩ = false) →
           ∃ u, exec i s = .next u ∧ u.mem = s.mem ∧ u.ccore.net.misses = s.ccore.net.misses ++
             [{ missOf t dest false key n false [] s.sched.nextId with
                turns := some 3, data := some (BitVec.ofNat 512 (leValue (lineBytes l key n))) }])
       reads (.ldg wd cl d a sid o5 g) (Cl.reg cl d) n ea ∧ reads (.vldg d a sid off g) (vreg d) 64 ea64) ∧
     (t.inDomain = true → exec (.ldg wd cl d a sid o5 g) s = .next (trapCur s cTIMING sylL 0) ∧
       exec (.vldg d a sid off g) s = .next (trapCur s cTIMING sylL 0)) ∧
     (passes (page n .w) ea false .walk → walk (.stg wd cl d a sid o5 g) ea) ∧
     (passes acquire ea8 true .walk → walk (.ldacq cl d a sid off g) ea8) ∧
     (passes release ea8 false .walk → walk (.strel cl d a sid off g) ea8)) ∧
  (∀ (s : State) (t : Thread) (cl : Cl) (d a : Reg) (sid : BitVec 4) (off : BitVec 7) (g : Guard) (m o : Nat)
     (peer : Option (BitVec 12)), Issues s t g →
     let r := Cl.reg cl d
     let loop : Bool := m = s.cur.core && peer.isNone
     let passes (n align : Nat) (gr : GRule) (var : Bool) : Prop :=
       spotOf s t s.cur.core s.cur.slot ⟨n, align, true, gr, none, none⟩ (eaOf s t a off n) = .core m o peer ∧
         blocked s t sylL ⟨n, align, true, gr, none, none⟩ (eaOf s t a off n) var = false
     let loads (i : Instr) (n : Nat) (sg : Bool) : Prop := QueuesLoad i s t r sid.toNat false false loop
       (missOf t r false 0 n sg (latOfRoute s.cur.core m peer).toList) (fun id => .remote (.load o n sg id) m peer (eaOf s t a off n))
     let stores (i : Instr) (n v : Nat) : Prop :=
       Queues i s sid.toNat false loop (.remote (.store (plainBytes o (leBytes v n))) m peer (eaOf s t a off n))
     let x := (t.regs.getS cl d).toNat
     (passes 1 1 .cluster true → loads (.ldb cl d a sid off g) 1 true ∧ loads (.ldbu cl d a sid off g) 1 false) ∧
     (passes 2 2 .cluster true → loads (.ldh cl d a sid off g) 2 true ∧ loads (.ldhu cl d a sid off g) 2 false) ∧
     (passes 4 4 .cluster true → loads (.ldw cl d a sid off g) 4 true ∧ loads (.ldwu cl d a sid off g) 4 false) ∧
     (passes 8 8 .cluster true → loads (.ldd cl d a sid off g) 8 false) ∧
     (passes 1 1 .tenant false → stores (.stb cl d a sid off g) 1 x) ∧ (passes 2 2 .tenant false → stores (.sth cl d a sid off g) 2 x) ∧
     (passes 4 4 .tenant false → stores (.stw cl d a sid off g) 4 x) ∧ (passes 8 8 .tenant false → stores (.std cl d a sid off g) 8 x) ∧
     (passes 64 4 .tenant false → d.toNat < 24 → stores (.vst d a sid off g) 64 (t.regs.getV d).toNat))

/-- R206 to R210, R299: an access joins the queue as its youngest entry; of two accesses of one stream the older is performed
first, a deferred atomic of class L comes before every later access but one that loops back, a release waits for every older
access, and a FENCE holds back the streams it covers. R207, R352: the FENCE forms complete: JOIN and FULL join the queue, LOOP
passes once no loop-back access of its streams is and no deferred atomic outstanding. Where the spec leaves a point of this open,
the model's choice or reading stands (log entry 23). -/
def Obligations.OrderQueueRulesAndFences : Prop :=
  ((∀ (s : State) (t : Thread) (sid : Nat) (rel acq loop : Bool) (kind : Nat → QKind), s.cur.slot < 8 → s.cth = some t →
     (∀ id, (QEntry.mk id sid rel acq loop false false (kind id)).access = true) →
     ∃ t' q, (pushQ s sid rel acq loop kind).cth = some t' ∧
       t'.orderQ = q ++ [⟨s.sched.nextId, sid, rel, acq, loop, false, false, kind s.sched.nextId⟩] ∧
       (∀ e ∈ q, e ∈ t.orderQ) ∧ (∀ e ∈ t.orderQ, e.access = true → e ∈ q) ∧ t'.regs = t.regs ∧ t'.ctl = t.ctl ∧
       (pushQ s sid rel acq loop kind).mem = s.mem) ∧
   (∀ a b : QEntry, a.access = true → b.access = true → a.perf = false →
     (a.isLocal = false → b.isLocal = false → a.sid = b.sid → a.sid < 16 → blocks a b = true) ∧
     (a.isLocal = true → b.loop = false → blocks a b = true) ∧ (b.rel = true → blocks a b = true) ∧
     (b.acq = true → a.rel = true → blocks a b = true)) ∧
   (∀ (a f b : QEntry) (full : Bool) (mask : BitVec 16), f.kind = .fence full mask → a.access = true → b.access = true →
     a.isLocal = false → b.isLocal = false →
     (a.perf = false → (full = true ∨ mask.getLsbD a.sid = true) → blocks a f = true) ∧
     ((full = true ∨ mask.getLsbD b.sid = true) → blocks f b = true))) ∧
  (∀ (s : State) (t : Thread) (mask : BitVec 16) (g : Guard), Issues s t g →
     exec (.fenceJoin mask g) s = .next (pushQ s 0 false false false (fun _ => .fence false mask)) ∧
     exec (.fenceFull g) s = .next (pushQ s 0 false false false (fun _ => .fence true 0)) ∧
     ((∀ e ∈ t.orderQ, (e.loop || e.isLocal) = true → mask.getLsbD e.sid = true → e.perf = true) → exec (.fenceLoop mask g) s = .next s) ∧
     ((∃ e ∈ t.orderQ, (e.loop || e.isLocal) = true ∧ mask.getLsbD e.sid = true ∧ e.perf = false) →
       exec (.fenceLoop mask g) s = .next (hold s)))

/-- R421, R422, R424, R55, R56: a strided or indexed access of 16 aligned class-L words completes in P bank passes: the first is
made at issue, the slot stalls P - 1 turns, which STALLC counts, and a load lands after 2 + (P - 1) turns. When the passes that are
left have been made too, lane i of the load's result holds the word at lane i's address, and a store has put every lane's word,
that of the highest lane where lanes meet, and changed no other byte. R421, R424: where the words of the lanes lie in distinct
banks, the one pass of a scatter stores every lane's word, and changes no other byte. -/
def Obligations.LaneAccessesComplete : Prop :=
  (∀ (s : State) (t : Thread) (d a st : Reg) (sid : BitVec 4) (g : Guard), Issues s t g → Good s → s.cur.slot < 8 →
     s.bar.errinj.getLsbD 63 = false → localPending s t = false → d.toNat < 24 → st.toNat < 24 →
     let strided := (List.range 16).map (fun i => t.regs.getX a + BitVec.ofNat 64 i * t.regs.getX st)
     let indexed := (List.range 16).map (fun i => t.regs.getX a + BitVec.ofNat 64 (laneOf 32 (t.regs.getV st) i))
     let ok (l : List Word) : Prop := ∀ e ∈ l, e.toNat % 4 = 0 ∧ e.toNat + 4 ≤ 0x78000 ∧ watermarked s.ccore e.toNat 4 = false
     let p (l : List Word) : Nat := passCount (l.map (fun e => e.toNat))
     let key (e : Word) : Nat := s.cur.core * 0x80000 + e.toNat
     let done (i : Instr) (l : List Word) (f : State → Thread → State → Prop) : Prop :=
       ∃ u t', exec i s = .next u ∧ u.cth = some t' ∧ t'.pipe.stallLeft = p l - 1 ∧ t'.pipe.passes.length = p l - 1 ∧
         t'.ctl.stallc = BitVec.ofNat 64 (min 0xFFFFFFFF (t.ctl.stallc.toNat + (p l - 1))) ∧ t'.regs = t.regs ∧
         f u t' (t'.pipe.passes.foldl (fun w q => doPass w s.cur.core s.cur.slot q) u)
     let loads (i : Instr) (l : List Word) : Prop := done i l (fun u t' w =>
       u.mem = s.mem ∧ w.mem = s.mem ∧ ∃ old r, t'.pipe.flights = old ++ [r] ∧
         ((∀ q ∈ t.pipe.flights, q.id ≠ s.sched.nextId) → old = t.pipe.flights) ∧
         r.dest = .v d ∧ r.rem = 2 + (p l - 1) ∧ r.mask = BitVec.allOnes 512 ∧
         ∃ t2 old2 r2, w.cth = some t2 ∧ t2.pipe.flights = old2 ++ [r2] ∧ r2 = { r with val := r2.val } ∧
           ∀ i, i < 16 → laneOf 32 r2.val i = Memory.readLE s.mem (key (l.getD i 0)) 4)
     let stores (i : Instr) (l : List Word) : Prop := done i l (fun _ t' w =>
       t'.pipe.flights = t.pipe.flights ∧
         (∀ i, i < 16 → (∀ j, i < j → j < 16 → l.getD j 0 ≠ l.getD i 0) →
           Memory.readLE w.mem (key (l.getD i 0)) 4 = laneOf 32 (t.regs.getV d) i) ∧
         ∀ b, (∀ e ∈ l, b < key e ∨ key e + 4 ≤ b) → Memory.read w.mem b = Memory.read s.mem b)
     (ok strided → (t.regs.getX st).toNat % 4 = 0 → loads (.vlds d a sid st g) strided ∧ stores (.vsts d a sid st g) strided) ∧
     (ok indexed → loads (.vgath d a sid st g) indexed ∧ stores (.vscat d a sid st g) indexed)) ∧
  (∀ (s : State) (v : Vec) (offs : List Nat), Good s → offs.length = 16 → s.bar.errinj.getLsbD 63 = false →
    (∀ o ∈ offs, o % 4 = 0 ∧ o < 0x80000) →
     (offs.map (fun o => o / 4 % 16)).Nodup →
     let u := scatterLanes s v offs
     (∀ i, i < 16 → Memory.readLE u.mem (s.cur.core * 0x80000 + offs.getD i 0) 4 = laneOf 32 v i) ∧
     (∀ a, (∀ o ∈ offs, a < s.cur.core * 0x80000 + o ∨ s.cur.core * 0x80000 + o + 4 ≤ a) →
       Memory.read u.mem a = Memory.read s.mem a))

/-- R329 to R331, R109: ATOM on class L completes at issue: the location takes the operation's value and nothing else in
memory changes; a returning one lands the old value in two turns. R330, R331: on classes G and M it joins the order queue, a returning one
under a miss register and the pending bit of its destination. R299: a returning one of a deterministic thread is deferred to its batch
under its key (L, q), on class L too. Where the spec leaves a point of this open, the model's choice or reading stands (log entry 73). -/
def Obligations.ScratchpadAtomicsComplete : Prop :=
  (∀ (s : State) (t : Thread) (op : Aop) (acq rel wide : Bool) (cl : Cl) (d a : Reg) (sid : BitVec 4) (g : Guard),
    Issues s t g → Good s → s.cur.slot < 8 → t.det = false → (rel = true → releaseOpen s t = true) →
    (d ≠ 0 → missFree s.ccore = true) →
    (acq = true → releasesDone t = true) →
    let n := if wide then 8 else 4
    let w := 8 * n
    let ea := t.regs.getX a
    let key := s.cur.core * 0x80000 + ea.toNat
    let old := Memory.readLE s.mem key n
    let x := if d = 0 then 0 else (t.regs.getS cl d).toNat % 2 ^ w
    let y := (t.regs.getS cl (d + 1)).toNat % 2 ^ w
    let new := match op with
      | .add => (old + x) % 2 ^ w | .and => old &&& x | .or => old ||| x | .xor => old ^^^ x
      | .min => if signedLane w old ≤ signedLane w x then old else x
      | .max => if signedLane w x ≤ signedLane w old then old else x
      | .minu => if old ≤ x then old else x | .maxu => if x ≤ old then old else x
      | .xchg => x | .cas => if old = x then y else old
    ScratchpadAccess s ea n n →
    ∃ u, exec (.atom op acq rel wide cl d a sid g) s = .next u ∧ Memory.readLE u.mem key n = new ∧
      (∀ b, b < key ∨ key + n ≤ b → Memory.read u.mem b = Memory.read s.mem b) ∧
      (d ≠ 0 → ∃ m ∈ (u.core s.cur.core).net.misses, m.dest = some (Cl.reg cl d) ∧ m.turns = some 2 ∧
        m.data = some (BitVec.ofNat 512 old) ∧ m.tid = t.tid)) ∧
  ∀ (s : State) (t : Thread) (op : Aop) (acq rel wide : Bool) (cl : Cl) (d a : Reg) (sid : BitVec 4) (g : Guard), Issues s t g →
    let n := if wide then 8 else 4
    let ea := t.regs.getX a
    let f : Shape := ⟨n, n, true, .cluster, some .rw, some (op = .add ∨ op = .xchg ∨ op = .cas)⟩
    let x := if d = 0 then 0 else t.regs.getS cl d
    let y := if op = .cas then t.regs.getS cl (d + 1) else 0
    let r := Cl.reg cl d
    let id := s.sched.nextId
    let here := s.cur.core
    let i : Instr := .atom op acq rel wide cl d a sid g
    let passes (sp : Spot) : Prop := spotOf s t here s.cur.slot f ea = sp ∧ blocked s t sylL f ea (d ≠ 0) = false
    let keyed (loc key : Nat) (at' : Option Nat) : Deferred := ⟨loc, at', taskLogical t.task, t.life.atoms, op, wide, key, x, y, here, id⟩
    let defers (l : List Deferred) : Prop := ∃ u, exec i s = .next u ∧ u.deferred = s.deferred ++ (if t.det = true then l else [])
    (∀ m o peer, passes (.core m o peer) →
      let loop : Bool := m = here && peer.isNone
      (d = 0 → exec i s = .next (pushQ s sid.toNat rel acq loop (fun _ => .remote (.atomic op wide o x y none) m peer ea))) ∧
      (d ≠ 0 → defers [keyed m (m * 0x80000 + o) none] ∧
        QueuesLoad i s t r sid.toNat rel acq loop (missOf t r acq 0 n false (latOfRoute here m peer).toList)
          (fun id => .remote (.atomic op wide o x y (some id)) m peer ea))) ∧
    (∀ key, passes (.gen key) →
      (d = 0 → exec i s = .next (pushQ s sid.toNat rel acq false (fun _ => .atomM op wide key x y none ea))) ∧
      (d ≠ 0 → defers [keyed (3072 + homeSlice key) key none] ∧
        QueuesLoad i s t r sid.toNat rel acq false (missOf t r acq 0 n false [latOf key])
          (fun id => .atomM op wide key x y (some id) ea))) ∧
    (∀ o, passes (.loc o) → t.det = true → d ≠ 0 → localPending s t = false → (rel = true → releaseOpen s t = true) →
      (acq = true → releasesDone t = true) →
      defers [keyed here (here * 0x80000 + o) (some (s.coreClock here))] ∧
        QueuesLoad i s t r sid.toNat rel acq false (missOf t r acq 0 n false []) (fun _ => .atomL))

/-- R410, R411: VATOM on class L completes with its lanes as bank passes, after every lane was checked; when its passes have been
made, each word holds its operation applied by the lanes that name it, in ascending order, and every other byte is as it was. A
misaligned lane traps the whole instruction. On class G, all lanes in one core, and on class M it joins the order queue with all its
lanes. Where the spec leaves a point of this open, the model's choice or reading stands (log
entry 22). -/
def Obligations.VectorAtomicsComplete : Prop :=
  ∀ (s : State) (t : Thread) (op : Aop) (d a : Reg) (sid : BitVec 4) (g : Guard), Issues s t g → Good s → s.cur.slot < 8 →
    s.bar.errinj.getLsbD 63 = false → localPending s t = false →
    let lanes := (List.range 16).map (fun i => t.regs.getX a + BitVec.ofNat 64 (laneOf 32 (t.regs.getV (d + 1)) i))
    let key (i : Nat) : Nat := s.cur.core * 0x80000 + (lanes.getD i 0).toNat
    let data (i : Nat) : Nat := laneOf 32 (t.regs.getV d) i
    let apply (old x : Nat) : Nat := match op with
      | .add => (old + x) % 2 ^ 32 | .and => old &&& x | .or => old ||| x
      | .min => if signedLane 32 old ≤ signedLane 32 x then old else x
      | .max => if signedLane 32 x ≤ signedLane 32 old then old else x
      | op => aopApply op 32 old x 0
    ((∀ e ∈ lanes, e.toNat % 4 = 0 ∧ e.toNat + 4 ≤ 0x78000 ∧ watermarked s.ccore e.toNat 4 = false) →
      ∃ u t', exec (.vatom op d a sid g) s = .next u ∧ u.cth = some t' ∧ t'.regs = t.regs ∧ t'.orderQ = t.orderQ ∧
        t'.pipe.flights = t.pipe.flights ∧
        t'.pipe.stallLeft = passCount (lanes.map (fun e => s.cur.core * 0x80000 + e.toNat)) - 1 ∧
        let w := t'.pipe.passes.foldl (fun w q => doPass w s.cur.core s.cur.slot q) u
        (∀ i, i < 16 → Memory.readLE w.mem (key i) 4 =
          ((List.range 16).filter (fun j => key j = key i)).foldl (fun old j => apply old (data j)) (Memory.readLE s.mem (key i) 4)) ∧
        ∀ b, (∀ i, i < 16 → b < key i ∨ key i + 4 ≤ b) → Memory.read w.mem b = Memory.read s.mem b) ∧
    ((∀ e ∈ lanes, blocked s t sylL ⟨4, 4, true, .tenant, some .rw, some (op = .add)⟩ e false = false) →
      (∃ e ∈ lanes, e.toNat % 4 ≠ 0) → ∃ c v, Traps (.vatom op d a sid g) s c sylL v) ∧
    (let f : Shape := ⟨4, 4, true, .tenant, some .rw, some (op = .add)⟩
     let spot (i : Nat) : Spot := spotOf s t s.cur.core s.cur.slot f (lanes.getD i 0)
     let each (o : Nat → Nat) : List (Nat × BitVec 32) := (List.range 16).map (fun i => (o i, BitVec.ofNat 32 (data i)))
     (∀ e ∈ lanes, blocked s t sylL f e false = false) →
     (∀ m peer o, (∀ i, i < 16 → spot i = .core m (o i) peer) → Queues (.vatom op d a sid g) s sid.toNat false
       (m = s.cur.core && peer.isNone) (.remote (.vatom op (each o)) m peer (lanes.getD 0 0))) ∧
     (∀ o, (∀ i, i < 16 → spot i = .gen (o i)) →
       Queues (.vatom op d a sid g) s sid.toNat false false (.vatomM op (each o) lanes)))

/-! ### Control (R334 to R338, R343 to R345, R359, R365, R368, R379, R383, R404 to R407) -/

/-- R334, R335, R337, R338, R383: a taken branch sets the slot's next bundle address; CALL also gives x31 the return address;
a register target with low bits set traps ALIGN with the target. -/
def Obligations.BranchesSetTheNextBundle : Prop :=
  ∀ (s : State) (t : Thread) (off : BitVec 22) (a : Reg) (g : Guard), Issues s t g → s.cur.slot < 8 →
    let goes (i : Instr) (target : Word) (fl : List Flight) : Prop :=
      ∃ u t', exec i s = .next u ∧ u.cur.next = target ∧ u.cth = some t' ∧ t'.regs = t.regs ∧ t'.ctl = t.ctl ∧
        t'.pipe.flights = t.pipe.flights ++ fl ∧ u.mem = s.mem ∧ u.cur.issue = s.cur.issue
    let rel := t.ctl.pc + off.signExtend 64 * 32
    let abs := t.regs.getX a
    goes (.br off g) rel [] ∧
    goes (.call off g) rel [⟨s.sched.nextId, .x 31, (t.ctl.pc + 32).setWidth 512, BitVec.allOnes 512, 1, 0⟩] ∧
    (abs.toNat % 32 = 0 → goes (.ret a g) abs [] ∧ goes (.brx a g) abs []) ∧
    (abs.toNat % 32 ≠ 0 → Traps (.ret a g) s cALIGN sylC abs ∧ Traps (.brx a g) s cALIGN sylC abs)

/-- R368, R379, R404, R365: predicate and mask logic, TIME, MARK and NOP complete. -/
def Obligations.LogicTimeMarkAndNopComplete : Prop :=
  ∀ (s : State) (t : Thread) (p : Pos) (d a b : BitVec 3) (r : Reg) (tag : BitVec 7) (g : Guard), Issues s t g →
    let pa := t.regs.getP a
    let pb := t.regs.getP b
    let ma := t.regs.getM a
    let mb := t.regs.getM b
    GivesPred (.plog .and d a b g) s d (pa && pb) 1 0 ∧
    GivesPred (.plog .or d a b g) s d (pa || pb) 1 0 ∧
    GivesPred (.plog .xor d a b g) s d (pa ^^ pb) 1 0 ∧
    GivesPred (.plog .andn d a b g) s d (pa && !pb) 1 0 ∧
    GivesPred (.plog .not d a b g) s d (!pa) 1 0 ∧
    Gives (.mlog .and d a b g) s (.m d) (ma &&& mb) 1 0 ∧
    Gives (.mlog .or d a b g) s (.m d) (ma ||| mb) 1 0 ∧
    Gives (.mlog .xor d a b g) s (.m d) (ma ^^^ mb) 1 0 ∧
    Gives (.mlog .andn d a b g) s (.m d) (ma &&& ~~~mb) 1 0 ∧
    Gives (.mlog .not d a b g) s (.m d) (~~~ma) 1 0 ∧
    Gives (.time r g) s (.x r) (BitVec.ofNat 64 (s.sched.g3 / 3)) 1 0 ∧
    exec (.mark r tag g) s = .next (recordCore s s.cur.core 0x14 s.cur.slot (s.tagOf t.task.rid)
      (BitVec.ofNat 82 (2 ^ 81 + tag.toNat * 2 ^ 74 + (t.regs.getX r).toNat)) none (some t.tid)) ∧
    exec (.nop p) s = .next s

/-- R406, R407, R63: TRAP of an untimed user thread completes by reporting its code, which the slot's next bundle takes;
in a timed domain it raises the freeze too, and a second one before it is TIMING; in a handler its bundle issues whole too, and the
report is region-fatal when the next one is due: the fault domain of the thread's region begins to end. -/
def Obligations.TrapReportsItsCode : Prop :=
  (∀ (s : State) (t : Thread) (code : BitVec 17) (g : Guard), Issues s t g → s.cur.slot < 8 →
    let reported := s.modCth (fun t => { t with reports := t.reports ++ [.trap (code.setWidth 64)] })
    (t.mode = 0 → t.timed = false → exec (.trap code g) s = .next reported ∧
      ∃ t', reported.cth = some t' ∧ t'.reports = t.reports ++ [.trap (code.setWidth 64)] ∧ t'.regs = t.regs ∧ t'.ctl = t.ctl) ∧
    (t.mode = 0 → t.timed = true → trapPending t = false → exec (.trap code g) s = .next (raiseFreeze reported t.task.rid 1)) ∧
    (t.mode = 0 → t.timed = true → trapPending t = true → Traps (.trap code g) s cTIMING sylC 0) ∧
    (t.mode ≠ 0 → exec (.trap code g) s =
      .next (s.modCth (fun t => { t with reports := t.reports ++ [.handlerTrap (code.setWidth 64)] })))) ∧
  ∀ (s : State) (n k : Nat) (t : Thread) (r : Region) (code : Word), s.thread n k = some t → t.mode ≠ 0 →
    t.reports.find? (fun x => match x with | .handlerTrap _ => true | _ => false) = some (.handlerTrap code) →
    s.frozenFor t = false → mayReport s n t = true → s.region t.task.rid = some r → (s.core n).cellar.frozen = false →
    ∃ u, exec (.trapTaken n k) s = .next u ∧ u.mem = s.mem ∧ ∃ q ∈ u.regions, q.rid = s.faultRoot t.task.rid ∧ q.phase = .ending

/-- R250 to R256, R88: taking a trap that is not fatal saves the cause, the bundle's PC and the value in the trap registers and
the context tail, moves the results in flight to its table in ascending visible turn, each as R256 lays it out, saves the wait it
stands at, enters handler mode and fetches from HVEC 24 clocks later; no register, predicate,
mask or token of the thread changes. R250, R257: every cause from 0x0010 up, every trap of a handler and every trap of a region
without a handler is fatal; a thread of a timed domain in user mode survives only PREEMPT and TRAP. Where the spec leaves a point
of this open, the model's choice or reading stands (log entry 13). -/
def Obligations.TrapEntrySavesAndEntersTheHandler : Prop :=
  (∀ (s : State) (n k : Nat) (t : Thread) (r : Region) (cause : BitVec 16) (syl : Nat) (val : Word),
     k < 8 → s.thread n k = some t → s.region t.task.rid = some r → isFatal s t cause = false → Good s →
     s.bar.errinj.getLsbD 63 = false →
     let u := takeTrap s n k cause syl val
     let tail := n * 0x80000 + 0x78000 + 0x1000 * k
     let c : Word := BitVec.ofNat 64 (syl % 8 * 2 ^ 21 + cause.toNat)
     let pc : Word := BitVec.ofNat 64 (t.ctl.pc.toNat % 2 ^ 48 / 32 * 32)
     (∃ t', u.thread n k = some t' ∧ t'.ctl.pc = r.hvec ∧ t'.mode = 1 ∧ t'.ctl.trapc = c ∧ t'.ctl.trappc = pc ∧
       t'.ctl.trapv = val ∧ t'.ctl.trapif = BitVec.ofNat 64 (0x78900 + 0x1000 * k) ∧ t'.pipe.flights = [] ∧
       t'.pipe.waitLeft = 0 ∧ t'.pipe.wait = .none ∧ t'.pipe.fetchAt = s.coreClock n + 24 ∧ t'.regs = t.regs ∧ t'.tok = t.tok) ∧
     Memory.readLE u.mem (tail + 0x860) 8 = c.toNat ∧ Memory.readLE u.mem (tail + 0x868) 8 = pc.toNat ∧
     Memory.readLE u.mem (tail + 0x870) 8 = val.toNat ∧
     (let saved : Nat × Nat × Word × Word := match t.pipe.wait with
        | .none => if t.pipe.waitLeft = 0 then (0, 0, 0, 0) else (1, t.pipe.waitLeft, 0, 0)
        | .waitt pd x _ => (2, pd.toNat, x, 0)
        | .waita a b => (3, 0, a, b)
        | .waitb a b => (4, 0, a, b)
        | .waitmb mb c => (5, mb.toNat, c.setWidth 64, 0)
        | .waitk m => (6, m.toNat, 0, 0)
        | .seqwait pd i th => (7, pd.toNat, i, th)
        | .gbar => (0, 0, 0, 0)
        | .eret _ => (0, 0, 0, 0)
      Memory.readLE u.mem (tail + 0x880) 8 = (saved.1 + 256 * saved.2.1) % 2 ^ 64 ∧
        Memory.readLE u.mem (tail + 0x888) 8 = saved.2.2.1.toNat ∧ Memory.readLE u.mem (tail + 0x890) 8 = saved.2.2.2.toNat) ∧
     (∃ l : List Flight, l.Perm t.pipe.flights ∧ (l.map (fun f => f.rem)).Pairwise (fun a b => a ≤ b) ∧
       (∀ m, l.filter (fun f => f.rem = m) = t.pipe.flights.filter (fun f => f.rem = m)) ∧
       ∀ i, i < 16 →
         let e := tail + 0x900 + 80 * i
         (l[i]? = none → Memory.read u.mem (e + 64) = 0) ∧
         ∀ f, l[i]? = some f →
           let place : Nat × Nat := match f.dest with
             | .x r => (0, r.toNat) | .y r => (1, r.toNat) | .v r => (2, r.toNat) | .p r => (3, r.toNat) | .m r => (4, r.toNat)
             | .port r => (5, r.toNat)
           let before := (l.take i).foldl (fun g x => g.putMasked x.dest x.val x.mask) t.regs
           let v : Vec := match f.dest with | .port _ => f.val &&& f.mask | d => blend (before.get d) f.val f.mask
           Memory.readLE u.mem e 64 = v.toNat ∧ Memory.read u.mem (e + 64) = 1 ∧
             Memory.read u.mem (e + 65) = BitVec.ofNat 8 place.1 ∧ Memory.read u.mem (e + 66) = BitVec.ofNat 8 place.2 ∧
             Memory.read u.mem (e + 67) = BitVec.ofNat 8 f.rem ∧ Memory.read u.mem (e + 68) = f.flags.setWidth 8 ∧
             ∀ j, 69 ≤ j → j < 80 → Memory.read u.mem (e + j) = 0) ∧
     ∀ a, (a < tail + 0x860 ∨ tail + 0xE00 ≤ a) → Memory.read u.mem a = Memory.read s.mem a) ∧
  (∀ (s : State) (t : Thread) (r : Region) (cause : BitVec 16), s.region t.task.rid = some r →
     (isFatal s t cause = true ↔
       (0x10 ≤ cause.toNat ∨ t.mode ≠ 0 ∨ r.hvec = 0 ∨ (t.timed = true ∧ cause ≠ cPREEMPT ∧ cause ≠ cTRAP))))

/-- R258, R343: ERET in a handler with nothing in flight, an empty in-flight table and no saved wait returns to user mode at
TRAPPC and keeps the registers; in user mode it traps PRIV; with a result of an earlier bundle in flight the slot holds, and with
results of its own bundle alone it issues and waits for them. The valid entries of the table return to flight, each one turn further
off, the turn in which the resumed bundle may issue, and the wait that WSTATE holds is resumed. Where the spec leaves a point of this open, the model's choice or
reading stands (log entries 9 and 18). -/
def Obligations.EretReturnsFromTheHandler : Prop :=
  ∀ (s : State) (t : Thread) (g : Guard), Issues s t g → s.cur.slot < 8 →
    let tail := s.cur.core * 0x80000 + 0x78000 + 0x1000 * s.cur.slot
    (t.mode = 0 → ∃ w, Traps (.eret g) s cPRIV sylC w) ∧
    (t.mode ≠ 0 → (∃ f ∈ t.pipe.flights, f.id < s.cur.first) → exec (.eret g) s = .next (hold s)) ∧
    (t.mode ≠ 0 → t.pipe.flights ≠ [] → (∀ f ∈ t.pipe.flights, s.cur.first ≤ f.id) →
      ∃ w, exec (.eret g) s = .next (s.modCth (fun t => { t with pipe := { t.pipe with wait := .eret w } }))) ∧
    (t.mode ≠ 0 → t.pipe.flights = [] → t.pipe.waitLeft = 0 → Good s → s.bar.errinj.getLsbD 63 = false →
      t.life.atBar = false → t.life.halted = false →
      (∀ i, i < 16 → Memory.read s.mem (tail + 0x900 + 80 * i + 64) = 0) →
      Memory.readLE s.mem (tail + 0x880) 8 = 0 →
      ∃ u t', exec (.eret g) s = .next u ∧ u.cth = some t' ∧ t'.mode = 0 ∧ u.cur.next = t.ctl.trappc ∧ t'.regs = t.regs ∧
        t'.pipe.flights = [] ∧ t'.pipe.wait = .none ∧ t'.pipe.waitLeft = 0 ∧
        (t'.ctl.ths ||| 3) = (t.ctl.ths ||| 3) ∧ Memory.readLE u.mem (tail + 0x880) 8 = 0) ∧
    (let word (o : Nat) : Nat := Memory.readLE s.mem (tail + o) 8
     let saved (w : Wait) (left : Nat) : Prop :=
       let is (kind field a b : Nat) : Prop := word 0x880 = kind + 256 * field ∧ word 0x888 = a ∧ word 0x890 = b
       match w with
       | .none => left < 2 ^ 40 ∧ is (if left = 0 then 0 else 1) left 0 0
       | .waitt pd x past => left = 0 ∧ is 2 pd.toNat x.toNat 0 ∧ past = decide (x.toNat < s.gtime)
       | .waita a b => left = 0 ∧ is 3 0 a.toNat b.toNat
       | .waitb a b => left = 0 ∧ is 4 0 a.toNat b.toNat
       | .waitmb mb c => left = 0 ∧ is 5 mb.toNat c.toNat 0
       | .waitk m => left = 0 ∧ is 6 m.toNat 0 0
       | .seqwait pd i th => left = 0 ∧ is 7 pd.toNat i.toNat th.toNat
       | .gbar => False
       | .eret _ => False
     ∀ (fl : List Flight) (w : Wait) (left : Nat), t.mode ≠ 0 → t.pipe.flights = [] → t.pipe.waitLeft = 0 → t.pipe.stallLeft = 0 →
       Good s → s.bar.errinj.getLsbD 63 = false → t.life.atBar = false → t.life.halted = false → fl.length ≤ 16 →
       (∀ f ∈ fl, 1 ≤ f.rem ∧ f.rem ≤ 19 ∧
         (match f.dest with
          | .x _ => True | .y _ => True | .v r => r.toNat < 24 | .p _ => True | .m _ => True
          | .port r => 24 ≤ r.toNat ∧ r.toNat ≤ 28)) →
       Memory.readBytes s.mem (tail + 0x900) 1280 = tableBytes (fl.map (fun f => (f, f.val))) → saved w left →
       ∃ u t', exec (.eret g) s = .next u ∧ u.cth = some t' ∧ t'.mode = 0 ∧ u.cur.next = t.ctl.trappc ∧ t'.regs = t.regs ∧
         t'.pipe.wait = w ∧ t'.pipe.waitLeft = left ∧ t'.pipe.owed = 0 ∧ t'.pipe.flights.length = fl.length ∧
         ∀ (i : Nat) (f : Flight), fl[i]? = some f → ∃ e : Flight, t'.pipe.flights[i]? = some e ∧ e.dest = f.dest ∧ e.val = f.val ∧
           e.rem = f.rem + 1 ∧ e.flags = f.flags ∧ (t.pipe.lifted = [] → e.mask = BitVec.allOnes 512) ∧
           (t.pipe.lifted = fl → (fl.map (fun x => x.dest)).Nodup → e.mask = f.mask))

/-- R42, R43, R166, R344, R359, R360: EXIT of a task whose pushes have landed ends it, and leaves the SEQADD of its region's EXITC, if it
names a counter, as a release in the ended thread's order queue; that the bank passes which its bundle has left are made then is the
model's choice (log entry 63); GBAR completes at once for a single task
and makes a gang member wait, and the last arrival schedules the release, which ends every member's wait; a gang member's EXIT
before its GBAR, and a GBAR in a handler, are fatal ENGINE. -/
def Obligations.ExitAndGbarComplete : Prop :=
  (∀ (s : State) (t : Thread), isFatal s t cENGINE = true) ∧
  ∀ (s : State) (t : Thread) (g : Guard), s.cur.slot < 8 →
    (Issues s t g → (t.timed = false ∨ trapPending t = false) → (t.task.size ≤ 1 ∨
      (t.life.gbarDone = true ∧ (gangMates s s.cur.core s.cur.slot t).any atBarrier = false)) →
        (∀ f ∈ t.pipe.flights, f.id < s.cur.first → ∀ r, f.dest ≠ .port r) → (∀ e ∈ t.qno, s.cur.first ≤ e.id) →
      ∃ u, exec (.exit g) s = .next u ∧ u.thread s.cur.core s.cur.slot = none ∧
        u.mem = (t.pipe.passes.foldl (fun w q => doPass w s.cur.core s.cur.slot q) s).mem ∧
        ∃ e ∈ (u.core s.cur.core).ended, e.tid = t.tid ∧ e.regs = t.regs ∧ e.life.left = s.cur.slot ∧
          ∀ r, s.bar.errinj.getLsbD 63 = false → s.region t.task.rid = some r →
            (r.exitc = 0xFFFFF → e.orderQ = t.orderQ) ∧
            (r.exitc ≠ 0xFFFFF → ∃ id, e.orderQ = t.orderQ ++
              [⟨id, 16, true, false, false, false, false, .seqadd none (r.pool + 8 * BitVec.ofNat 64 r.exitc) 1⟩])) ∧
    (Issues s t g → (t.timed = false ∨ trapPending t = false) → 1 < t.task.size → t.life.gbarDone = false →
      ∃ w, Traps (.exit g) s cENGINE sylC w) ∧
    (Issues s t g → t.mode = 0 → t.task.size ≤ 1 → ∃ u t', exec (.gbar g) s = .next u ∧ u.cth = some t' ∧
      t'.life.gbarDone = true ∧ t'.pipe = t.pipe ∧ t'.regs = t.regs) ∧
    (Issues s t g → t.mode = 0 → 1 < t.task.size → ∃ u t', exec (.gbar g) s = .next u ∧ u.cth = some t' ∧
      t'.pipe.wait = .gbar ∧ t'.regs = t.regs ∧
      ((∀ i, i < t.task.size → t.task.base + i ≠ s.cur.core → ∃ m, s.thread (t.task.base + i) s.cur.slot = some m ∧
          atBarrier m = true) → t.task.base ≤ s.cur.core → s.cur.core < t.task.base + t.task.size →
        (s.sched.clock + 1, Event.gbarRelease s.cur.core s.cur.slot) ∈ u.sched.agenda)) ∧
    (Issues s t g → t.mode ≠ 0 → ∃ w, Traps (.gbar g) s cENGINE sylC w) ∧
    ∀ n k, s.thread n k = some t → (t :: gangMates s n k t).length = t.task.size → (t :: gangMates s n k t).all atBarrier = true →
      ∃ u, exec (.gbarRelease n k) s = .next u ∧ u.mem = s.mem ∧ ∀ m q, m ∈ gangCores t.task.base t.task.size →
        s.thread m k = some q → ∃ q', u.thread m k = some q' ∧ q'.life.gbarDone = true ∧ q'.regs = q.regs ∧ q'.ctl = q.ctl ∧
          q'.pipe.wait = if q.pipe.wait = .gbar then .none else q.pipe.wait

/-- R230, R231, R328, R385: ARRIVE on class L counts one arrival, and the last expected one clears the count and advances the
phase; on class G it joins the order queue as a release; SEQADD joins the order queue as a release; an index outside the pool traps PRIV with the index. Where the spec leaves a
point of this open, the model's choice or reading stands (log entry 50). -/
def Obligations.ArrivalsAndSequenceCounters : Prop :=
  ∀ (s : State) (t : Thread) (a b : Reg) (pd : BitVec 3) (g : Guard), Issues s t g → Good s →
    let ea := t.regs.getX a
    let key := s.cur.core * 0x80000 + ea.toNat
    let word (m : List Host.Cell) (o : Nat) : Nat := Memory.readLE m (key + o) 4
    (ScratchpadAccess s ea 16 16 → releaseOpen s t = true → ∃ u, exec (.arrive a g) s = .next u ∧
      word u.mem 0 = word s.mem 0 ∧
      (word s.mem 4 + 1 < word s.mem 0 → word u.mem 4 = word s.mem 4 + 1 ∧ word u.mem 8 = word s.mem 8) ∧
      (word s.mem 0 ≤ word s.mem 4 + 1 → word u.mem 4 = 0 ∧ word u.mem 8 = (word s.mem 8 + 1) % 2 ^ 32) ∧
      ∀ x, (x < key + 4 ∨ key + 12 ≤ x) → Memory.read u.mem x = Memory.read s.mem x) ∧
    (∀ m o peer, let f : Shape := ⟨16, 16, true, .tenant, none, none⟩
      spotOf s t s.cur.core s.cur.slot f ea = .core m o peer → blocked s t sylC f ea false = false →
      Queues (.arrive a g) s 16 true (m = s.cur.core && peer.isNone) (.remote (.arrive o) m peer ea)) ∧
    (((poolOf s t.task.rid).2 ≤ ea.toNat ∨ 2 ^ 20 ≤ ea.toNat) →
      Traps (.seqadd a b g) s cPRIV sylC ea ∧ Traps (.seqwait pd a b g) s cPRIV sylC ea) ∧
    (ea.toNat < (poolOf s t.task.rid).2 → ea.toNat < 2 ^ 20 →
      ∀ k, spotOf s t s.cur.core s.cur.slot ⟨8, 8, false, .no, some .rw, none⟩ (counterAddr s t.task.rid ea) = .gen k →
        classOf (counterAddr s t.task.rid ea) = .m → queueFull s t 1 = false →
        exec (.seqadd a b g) s =
          .next (pushQ s 16 true false false (fun _ => .seqadd (some k) (counterAddr s t.task.rid ea) (t.regs.getX b))))

/-! ### Waits (R57, R58, R68, R435 to R441) -/

/-- R57, R58, R68, R233, R435 to R441, R387: the waits complete: WAIT adds its turns; the others hold the slot until their
condition is true, which a first evaluation may find at once. A WAITMB is evaluated at the end of its turns' clocks, once their
landings are made: it ends with its subtraction where the mailbox holds its count, and else waits on. Where the spec leaves a
point of this open, the model's choice or reading stands (log entries 4 and 25). -/
def Obligations.WaitsStartAndEnd : Prop :=
  ∀ (s : State) (t : Thread) (pd : BitVec 3) (a b : Reg) (m17 : BitVec 17) (mb : BitVec 6) (mask : BitVec 7) (g : Guard),
    Issues s t g → s.cur.slot < 8 → s.bar.errinj.getLsbD 63 = false →
    let x := t.regs.getX a
    let y := t.regs.getX b
    let waits (i : Instr) (w : Wait) : Prop :=
      ∃ u t', exec i s = .next u ∧ u.cth = some t' ∧ t'.pipe.wait = w ∧ t'.regs = t.regs ∧ t'.ctl = t.ctl ∧ u.mem = s.mem ∧
        t'.pipe.flights = t.pipe.flights ∧ t'.pipe.waitLeft = t.pipe.waitLeft
    (∃ u t', exec (.wait m17 g) s = .next u ∧ u.cth = some t' ∧ t'.pipe.waitLeft = t.pipe.waitLeft + m17.toNat ∧
      t'.pipe.wait = t.pipe.wait ∧ t'.regs = t.regs ∧ u.mem = s.mem) ∧
    waits (.waitt pd a g) (.waitt pd x (decide (x.toNat < s.gtime))) ∧
    (x.toNat % 8 = 0 → x.toNat + 8 ≤ 0x78000 →
      waits (.waita a b g) (if Memory.readLE s.mem (s.cur.core * 0x80000 + x.toNat) 8 = y.toNat then .waita x y else .none)) ∧
    (x.toNat % 16 = 0 → x.toNat + 16 ≤ 0x78000 → releasesDone t = true →
      waits (.waitb a b g)
        (if Memory.readLE s.mem (s.cur.core * 0x80000 + x.toNat + 8) 4 = y.toNat % 2 ^ 32 then .waitb x y else .none)) ∧
    waits (.waitmb mb a g) (.waitmb mb (x.setWidth 32)) ∧
    (∀ (n k : Nat) (u : Thread) (c : BitVec 32), k < 8 → s.thread n k = some u → u.pipe.wait = .waitmb mb c →
      let have' : BitVec 32 := (s.core n).net.mbc[mb.toNat]
      (c ≤ have' → releasesDone u = true → ∃ u', (evalMailbox s n k).thread n k = some u' ∧ u'.pipe.wait = .none ∧ u'.regs = u.regs ∧
        ((evalMailbox s n k).core n).net.mbc[mb.toNat] = have' - c ∧ (evalMailbox s n k).mem = s.mem) ∧
      (¬c ≤ have' → evalMailbox s n k = s)) ∧
    (releasesDone t = true → waits (.waitk mask g)
      (if (List.range 7).all (fun j => !mask.getLsbD j || t.tok[j + 1]? ≠ some .pending) then .none else .waitk mask)) ∧
    (x.toNat < (poolOf s t.task.rid).2 → x.toNat < 2 ^ 20 →
      ∀ k, spotM s s.cur.core (pasidOf s t.task.rid) .r none (counterAddr s t.task.rid x) = .gen k →
        waits (.seqwait pd a b g) (.seqwait pd x y))

/-! ### Control registers (R74, R86 to R92, R381, R382, R443, R444) -/

/-- R86, R88, R381, R444: RDC of a readable register completes, and WRC of a writable one; the handler's registers in user
mode, and registers that may not be written, trap PRIV. -/
def Obligations.ControlRegisterAccess : Prop :=
  ∀ (s : State) (t : Thread) (d a : Reg) (c : BitVec 12) (g : Guard), Issues s t g → s.cur.slot < 8 →
    (ctlReadable t.mode c.toNat = true → Gives (.rdc d c g) s (.x d) (readCtl s s.cur.core t c.toNat) 1 0) ∧
    (ctlReadable t.mode c.toNat = false → ∃ w, Traps (.rdc d c g) s cPRIV sylC w) ∧
    (ctlWritable t.mode c.toNat = false → ∃ w, Traps (.wrc c a g) s cPRIV sylC w) ∧
    (t.mode = 0 → (1 ≤ c.toNat ∧ c.toNat ≤ 4) → ctlReadable t.mode c.toNat = false ∧ ctlWritable t.mode c.toNat = false) ∧
    (ctlWritable t.mode c.toNat = true → c ≠ 0x10 → exec (.wrc c a g) s = .next (writeCtl s t c.toNat (t.regs.getX a))) ∧
    (mxcfgOk s s.cur.core (t.regs.getX a) = true → stepsRunning s.ccore.eng = false →
      exec (.wrc 0x10 a g) s = .next (writeCtl s t 0x10 (t.regs.getX a))) ∧
    (mxcfgOk s s.cur.core (t.regs.getX a) = false → Traps (.wrc 0x10 a g) s cILLEGAL sylC (t.regs.getX a))

/-- R87, R88, R56, R91, R90, R382: a control register reads back what WRC wrote under its writable bits; THS keeps MODE,
TIMED and DET, and the registers of a thread are its own. -/
def Obligations.ControlRegisterReadBack : Prop :=
  ∀ (s : State) (t : Thread) (v : Word), s.cur.slot < 8 → s.cth = some t → s.ccore.net.landed = [] →
    let back (num : Nat) (r : Word) : Prop :=
      ∃ t', (writeCtl s t num v).cth = some t' ∧ readCtl (writeCtl s t num v) s.cur.core t' num = r ∧ t'.regs = t.regs ∧
        t'.mode = t.mode ∧ t'.timed = t.timed ∧ t'.det = t.det ∧ (writeCtl s t num v).mem = s.mem
    back 0x00 ((t.ctl.ths &&& 0xFFFFFFFFFFF0E08F) ||| (v &&& 0xF1F70)) ∧
    back 0x02 (v &&& 0x0000FFFFFFFFFFE0) ∧
    back 0x20 (v &&& 0xFFFFFFFF) ∧
    (∀ i, i < 64 → back (0x30 + i) v) ∧
    (∀ i, i < 64 → back (0x100 + i) (v &&& 0xFFFFFFFF)) ∧
    back 0x85 (v &&& 0x0FFFFFFF)

/-! ### Tensors and engines (R82, R197 to R202, R218, R224 to R249, R358, R371 to R376, R405) -/

/-- R200, R201, R405: TLD of a held entry completes with the tile's elements that lie inside the dimensions, zero for a tile
outside the grid; TST stores exactly those elements; an id outside the region's range traps PRIV. Where the spec leaves a point
of this open, the model's choice or reading stands (log entry 22). -/
def Obligations.TileAccessesComplete : Prop :=
  ∀ (s : State) (t : Thread) (d a : Reg) (sid : BitVec 4) (g : Guard) (e : Tensor) (tiles : List Word), Issues s t g →
    let n := s.cur.core
    let tid := (t.regs.getX a).toNat
    let at4 := tileCoords (t.regs.getX (a + 1))
    let va := entryAddr s (BitVec.ofNat 2 (n / 768)) (tid % 4096)
    d.toNat < 24 →
    ((4096 ≤ tid ∨ (s.bar.errinj.getLsbD 63 = false ∧ findEntry s n t.task.rid (tid % 4096) = none)) →
      Traps (.tld d a sid g) s cPRIV sylL va ∧ Traps (.tst d a sid g) s cPRIV sylL va) ∧
    (tid < 4096 → findEntry s n t.task.rid tid = some (e, some tiles) → (t.inDomain = false ∨ e.local' = true) →
      (findTile s n t.task.rid tid e (some tiles) at4 = .outside →
        Gives (.tld d a sid g) s (vreg d) 0 2 0 ∧ (e.ro = false → exec (.tst d a sid g) s = .next s)) ∧
      (∀ ad tn off, findTile s n t.task.rid tid e (some tiles) at4 = .at' ad tn → e.fmt ≠ 8 → ad.toNat = off →
        ScratchpadAccess s ad 64 64 →
        exec (.tld d a sid g) s = .next (pushFlight s (vreg d)
          (BitVec.ofNat 512 (Memory.readLE s.mem (n * 0x80000 + off) 64) &&& e.keep at4) (BitVec.allOnes 512) 2 0) ∧
        (e.ro = false → Good s → ∃ u, exec (.tst d a sid g) s = .next u ∧ u.cores = s.cores ∧
          BitVec.ofNat 512 (Memory.readLE u.mem (n * 0x80000 + off) 64) =
            blend (BitVec.ofNat 512 (Memory.readLE s.mem (n * 0x80000 + off) 64)) (t.regs.getV d) (e.keep at4) ∧
          ∀ b, (b < n * 0x80000 + off ∨ n * 0x80000 + off + 64 ≤ b) → Memory.read u.mem b = Memory.read s.mem b)))

/-- R82, R154, R161, R358: with room in the gang engine's queue and its produced token not pending, an engine syllable of a
user-mode thread completes by joining the queue, and a snapshot read by starting; the token becomes pending, and no register or
byte of memory changes. R82, R358: an E syllable whose produced token is still pending holds its bundle, and traps TIMING in
domain time. Where the spec leaves a point of this open, the model's choice or reading stands (log entry 27). -/
def Obligations.GangEngineSyllablesEnter : Prop :=
  (∀ (s : State) (t : Thread) (mask b : BitVec 4) (set : Bool) (d a : Reg) (k : Toks), s.cth = some t → s.cur.slot < 8 →
     tokOf t k.kp.toNat ≠ .pending →
     let x := t.regs.getX a
     let h (i : Instr) := mkHead s t k (wordOf i)
     let q := s.ccore.eng.queue
     let enters (i : Instr) (eng : Engine → Prop) : Prop :=
       ∃ u t', exec i s = .next u ∧ u.cth = some t' ∧ (k.kp ≠ 0 → t'.tok[k.kp.toNat]? = some .pending) ∧ t'.regs = t.regs ∧
         t'.ctl = t.ctl ∧ u.mem = s.mem ∧ u.cur = s.cur ∧ eng u.ccore.eng
     (t.mode = 0 → engineFull s.ccore.eng = false →
       enters (.mxldb mask a k) (fun e => e.queue = q ++ [⟨h (.mxldb mask a k), none, .mxldb mask x⟩]) ∧
       enters (.mxclr set k) (fun e => e.queue = q ++ [⟨h (.mxclr set k), none, .mxclr set⟩]) ∧
       (1 ≤ x.toNat → x.toNat ≤ 65535 → t.inDomain = false →
         enters (.mxrun set a b k) (fun e =>
           e.queue = q ++ [⟨h (.mxrun set a b k), none,
             .mxrun set x.toNat (if b = 0 then none else some (t.regs.getX (b.setWidth 5)))⟩]))) ∧
     (x.toNat < 2 ^ 9 → enters (.mxrd d a b k) (fun e =>
       e.queue = q ∧ e.rds = s.ccore.eng.rds ++ [⟨h (.mxrd d a b k), false, d, b, x, s.sched.clock + 32, none⟩])) ∧
     (x.toNat < 2 ^ 6 → enters (.mxflg d a k) (fun e =>
       e.queue = q ∧ e.rds = s.ccore.eng.rds ++ [⟨h (.mxflg d a k), true, d, 0, x, s.sched.clock + 32, none⟩])) ∧
     (t.mode ≠ 0 → 1 ≤ x.toNat → x.toNat ≤ 65535 → (∃ w, Traps (.mxldb mask a k) s cENGINE sylE w) ∧
       (∃ w, Traps (.mxrun set a b k) s cENGINE sylE w) ∧ ∃ w, Traps (.mxclr set k) s cENGINE sylE w) ∧
     ((x.toNat = 0 ∨ 65535 < x.toNat) → Traps (.mxrun set a b k) s cILLEGAL sylE x)) ∧
  (∀ (s : State) (t : Thread) (mask : BitVec 4) (ch : BitVec 3) (a : Reg) (b : BitVec 4) (k : Toks), s.cth = some t →
     t.mode = 0 → k.kp ≠ 0 → t.tok[k.kp.toNat]? = some .pending → wmsetIll (t.regs.getX a) (t.regs.getX (b.setWidth 5)) = none →
     (t.timed = false → exec (.mxldb mask a k) s = .next (hold s) ∧ exec (.wmset ch a b k) s = .next (hold s)) ∧
     (t.timed = true → Traps (.mxldb mask a k) s cTIMING sylE 0 ∧ Traps (.wmset ch a b k) s cTIMING sylE 0))

/-- R224, R225, R234, R237, R245, R249, R340, R389, R394, R395, R442: CPY, WMSET, SEND, SNLD and SPAWN whose operands pass their
checks and whose resources are free complete by becoming the core's youngest job; the token becomes pending. Where the spec
leaves a point of this open, the model's choice or reading stands (log entries 29, 30, 31 and 32). -/
def Obligations.DataMovementSyllablesStart : Prop :=
  ∀ (s : State) (t : Thread) (a : Reg) (b : BitVec 4) (ch : BitVec 3) (k : Toks), s.cth = some t → s.cur.slot < 8 →
    tokOf t k.kp.toNat ≠ .pending →
    let v := vecOf (popPort s a) t a
    let w := t.regs.getX (b.setWidth 5)
    let x := t.regs.getX a
    let starts (i : Instr) (j : JobKind → Prop) : Prop :=
      ∃ u t' kind, exec i s = .next u ∧ u.ccore.net.jobs = s.ccore.net.jobs ++ [⟨mkHead s t k (wordOf i), kind⟩] ∧ j kind ∧ u.cth = some t' ∧
        (k.kp ≠ 0 → t'.tok[k.kp.toNat]? = some .pending) ∧ t'.regs = t.regs ∧ u.mem = s.mem
    (portsReady s t [a] none = true → copyIll v = none → freeTags s.ccore ≠ [] → copyAlign (parseCopy v) = none →
      copyPriv s t s.cur.core s.cur.slot (parseCopy v) = none → s.bar.errinj.getLsbD 63 = false →
      starts (.cpy a k) (fun j => ∃ tag ∈ freeTags s.ccore, j = .copy tag v 0)) ∧
    (x.toNat % 64 = 0 → w.toNat % 64 = 0 → x.toNat ≤ w.toNat → w.toNat ≤ 0x78000 →
      starts (.wmset ch a b k) (fun j => j = .wmset ch x.toNat w.toNat)) ∧
    (portsReady s t [a] none = true → (w.extractLsb' 62 2).toNat < 2 → sendIll s t s.cur.core (.send a b k) w = none →
      (∀ ready, sendTrap s t w ready = none) → (∀ m peer, sendRoute s t.task.rid w = some (m, peer) → windowOpen s s.cur.core m peer = true) →
      starts (.send a b k) (fun j => j = .send v w)) ∧
    (snldTrap s t (.snld a k) x = none → starts (.snld a k) (fun j => j = .snld x.toNat (wordOf (.snld a k)))) ∧
    (portsReady s t [a] none = true → spawnCheck s t.task.rid s.cur.core (parseTrec v) = none →
      ∀ die : Nat, die < 4 → die = (match s.region ((parseTrec v).target t.task.rid) with
        | some r => recordDieOf r (parseTrec v) (some s.cur.core) | none => dieOf s.cur.core) →
      dispatchFull s die = false → (die = dieOf s.cur.core ∨ windowOpen s s.cur.core (dispatchEnd die) none = true) →
      starts (.spawn a k) (fun j => j = .spawn (BitVec.ofNat 2 die) v))

/-! ### Accesses on their way (R184 to R186, R205 to R210, R217, R228 to R244, R299, R385) -/

/-- R183, R189, R204, R205, R210, R385: an order-queue entry that nothing before it blocks is performed: a class-M store writes its
bytes, a class-M load reads the bytes of its line in the read cache, where it may read that, and else those of memory, a class-G access
leaves as a packet, a SEQADD adds with saturation and keeps the poison bit. R43: the SEQADD of an EXITC finds its page then, and waits
for its walk. Where the spec leaves a point of this open, the model's choice or reading stands (log entries 19, 23 and 25). -/
def Obligations.OrderQueueEntriesAreGlobal : Prop :=
  ∀ (s : State) (n k id : Nat) (t : Thread) (e : QEntry), readyEntry s n id = some (t, e) → Good s → s.bar.errinj.getLsbD 63 = false →
    let adds (key : Nat) (x : Word) : Prop := ∃ u, exec (.seqaddPerform n k id) s = .next u ∧
      (let c := Memory.readLE s.mem key 8
       Memory.readLE u.mem key 8 = (if 2 ^ 63 ≤ c then 2 ^ 63 else 0) + min (c % 2 ^ 63 + x.toNat) (2 ^ 63 - 1)) ∧
      ∀ a, (a < key ∨ key + 8 ≤ a) → Memory.read u.mem a = Memory.read s.mem a
    (∀ l va, e.kind = .storeM l va → ∃ u, exec (.orderQueuePerform n k id) s = .next u ∧ u.mem = writeMasked s.mem l) ∧
    (∀ m, e.kind = .loadM m → exec (.orderQueuePerform n k id) s = .next (markPerformed (performLoad s n m) n t.tid id true) ∧
      ∀ y, (s.core n).net.misses.find? (fun x => x.id = m) = some y → y.scale = none → 0 < y.n →
        let line := usableLine s n y.key y.n y.acq
        let bytes := match line with | some l => lineBytes l y.key y.n | none => Memory.readBytes s.mem y.key y.n
        let lats := y.lats ++ (if line.isSome then [] else [latOf y.key])
        ∃ u, exec (.orderQueuePerform n k id) s = .next u ∧
          (poisoned s y.key = false → u.mem = s.mem ∧
            { y with data := some (missValue y bytes 0), soft := none, lats := lats } ∈ (u.core n).net.misses ∧
            (y.signed = false → y.mask = BitVec.allOnes 512 → y.base = 0 → missValue y bytes 0 = BitVec.ofNat 512 (leValue bytes))) ∧
          (poisoned s y.key = true → poolOwner s y.key = none → u.mem = s.mem ∧
            { y with data := some 0, soft := some (lineOf y.key), lats := lats } ∈ (u.core n).net.misses)) ∧
    (∀ c dst peer va, e.kind = .remote c dst peer va → windowOpen s n dst peer = true →
      ∃ u p, exec (.orderQueuePerform n k id) s = .next u ∧ u.net = s.net ++ [p] ∧ p.cargo = c ∧ p.src = n ∧ p.dst = dst ∧
        p.peer = peer ∧ p.entry = some id ∧ p.landed = false ∧ u.mem = s.mem) ∧
    (∀ key va x, e.kind = .seqadd (some key) va x → s.poison.contains (lineOf key) = false → adds key x) ∧
    (∀ va x, e.kind = .seqadd none va x →
      let spot := spotM s n (pasidOf s t.task.rid) .rw none va
      (spot = .walk → exec (.seqaddPerform n k id) s = .next (askXlate s n (pasidOf s t.task.rid) va.toNat)) ∧
      ∀ key, spot = .gen key → s.poison.contains (lineOf key) = false → adds key x) ∧
    (∀ op wide key x y va, e.kind = .atomM op wide key x y none va → isStack key = true → s.poison.contains (lineOf key) = false →
      (∀ p ∈ s.net, p.src = n → p.entry ≠ some id) →
      ∃ u, exec (.atomicExecute n k id) s = .next u ∧ u.mem = writeMasked s.mem (atomAct s op wide key x y).2 ∧
        (atomAct s op wide key x y).1 = Memory.readLE s.mem key (if wide then 8 else 4))

/-- R184, R185, R183, R231, R237, R232, R317: a packet that its destination admits takes effect there: a store writes its bytes, a load
takes the bytes at its address, extended as its form says, an arrival counts, a put writes 64 bytes; all but the load's then wait for their acknowledgement. A store of
another package lands with its answer, which waits for a trained link, and a packet for another package is forwarded; none comes
while no link is trained. Where the spec leaves a point of this open,
the model's choice or reading stands (log entry 17). -/
def Obligations.PacketsTakeEffectAtTheirDestination : Prop :=
  (∀ (s : State) (pkg : BitVec 14) (p : Packet), pkg ≠ Config.straps → anyLink s = true → s.answers = [] →
    ∃ u q, runEvent (.peerPacket pkg p) s = .next u ∧ q.cargo = p.cargo ∧ q.src = p.src ∧ q.dst = p.dst ∧ q.tenant = p.tenant ∧
      u.mem = s.mem ∧ (peerIndex s pkg = none → u.inbound = s.inbound ∧ u.outputs = s.outputs ++ [.answered q (some cABSENT)]) ∧
      ∀ i : BitVec 12, peerIndex s pkg = some i → s.net = [] → s.inbound = [] →
        let l := if peerOf s i = .away then trainedLinks s (assocGet s.bar.peers i.toNat 0) else []
        (l ≠ [] → q.link.isSome = true ∧ (∀ x, q.link = some x → x ∈ l) ∧ (s.routes = [] → q.link = l[(p.src + p.dst) % l.length]?) ∧
          u.inbound = [] ∧
          u.outputs = s.outputs ++ [.forwarded q]) ∧
        (l = [] → u.inbound = [q] ∧ q.held = some (s.gtime + Config.absentHold) ∧ u.outputs = s.outputs)) ∧
  (∀ (s : State) (pkg : BitVec 14) (p : Packet), anyLink s = false → ∃ u, runEvent (.peerPacket pkg p) s = .next u ∧
    u.inbound = s.inbound ∧ u.outputs = s.outputs ∧ u.mem = s.mem) ∧
  (∀ (s : State) (id : Nat) (p : Packet) (o : Nat) (l : List Byte), inboundFirst s id = some p → p.peer = none →
    s.bar.errinj.getLsbD 63 = false → admitOf s { p with head := { p.head with rid := 0 } } = .take → Good s → p.cargo = .store (plainBytes o l) →
    ∃ u, runEvent (.peerServe id) s = .next u ∧ (∀ q ∈ u.inbound, q.id ≠ id) ∧
      (anyLink s = true → u.outputs = s.outputs ++ [.answered p none]) ∧
      (anyLink s = false → u.outputs = s.outputs ∧ u.answers = s.answers ++ [(p, none)]) ∧
      ∀ a, Memory.read u.mem a = if p.dst * 0x80000 + o ≤ a ∧ a < p.dst * 0x80000 + o + l.length then
        l.getD (a - (p.dst * 0x80000 + o)) 0 else Memory.read s.mem a) ∧
  ∀ (s : State) (id : Nat) (p : Packet), arriving s id = some p → admitOf s p = .take → Good s → s.bar.errinj.getLsbD 63 = false →
    let base := p.dst * 0x80000
    (∀ o l, p.cargo = .store (plainBytes o l) → ∃ u, exec (.remoteStoreLanding id) s = .next u ∧
      (∀ a, Memory.read u.mem a = if base + o ≤ a ∧
        a < base + o + l.length then l.getD (a - (base + o)) 0 else Memory.read s.mem a) ∧
      ∀ q ∈ u.net, q.id = id → q.landed = true) ∧
    (∀ o n sg m e, p.cargo = .load o n sg m → p.entry = some e → ∃ u, exec (.remoteLoadServe id) s = .next u ∧
      u.mem = s.mem ∧ (∀ q ∈ u.net, q.id ≠ id) ∧
      ∀ y ∈ (s.core p.src).net.misses, y.id = m → y.n = n → y.signed = sg → y.mask = BitVec.allOnes 512 → y.base = 0 →
        0 < n → n ≤ 8 →
        let v := Memory.readLE s.mem (base + o) n
        { y with data := some (BitVec.ofNat 512 (if sg = true ∧ 2 ^ (8 * n - 1) ≤ v then 2 ^ 64 - 2 ^ (8 * n) + v else v)) } ∈
          (u.core p.src).net.misses) ∧
    (∀ o, p.cargo = .arrive o → ∃ u, exec (.barrierArrival id) s = .next u ∧
      u.mem = (arriveAt s p.dst o (p.head.slot % 8) (some p.head.tid)).mem ∧
      ∀ q ∈ u.net, q.id = id → q.landed = true) ∧
    (∀ o v mb, p.cargo = .put o v mb → ∃ u, exec (.putLanding id) s = .next u ∧
      Memory.readLE u.mem (base + o) 64 = v.toNat ∧ (∀ q ∈ u.net, q.id = id → q.landed = true) ∧
      (∀ a, (a < base + o ∨ base + o + 64 ≤ a) → Memory.read u.mem a = Memory.read s.mem a) ∧
      ∀ i, mb = some i → (u.core p.dst).net.mbc[i.toNat] =
        (if (s.core p.dst).net.mbc[i.toNat] = 0xFFFFFFFF then 0xFFFFFFFF else (s.core p.dst).net.mbc[i.toNat] + 1))

/-- R83, R186, R229, R239, R244: a load's landing writes its register and frees its miss register; an acknowledgement removes its
packet; a packet held past its time is discarded. Where the spec leaves a point of this open, the model's choice or reading
stands (log entry 17). -/
def Obligations.LandingsAndAcknowledgements : Prop :=
  ∀ (s : State) (n id : Nat),
    (∀ (k : Nat) (t : Thread) (m : Miss) (d : Dest) (v : Vec), (s.core n).net.misses.find? (fun x => x.id = id) = some m →
      m.tid = t.tid →
      s.slotOf n t.tid = some k → s.thread n k = some t → m.dest = some d → m.data = some v → m.turns = none →
      behindFlight t m = false →
      ∃ u t', exec (.loadLanding n id) s = .next u ∧ u.thread n k = some t' ∧ t'.regs = t.regs.put d v ∧
        t'.isPending d = false ∧ (∀ x ∈ (u.core n).net.misses, x.id ≠ id) ∧ u.mem = s.mem) ∧
    (∀ p : Packet, s.net.find? (fun q => q.id = id) = some p → (p.landed = true ∨ (p.peer.isSome = true ∧ p.link.isSome = true)) →
      ∃ u, exec (.ackReturn id) s = .next u ∧ (∀ q ∈ u.net, q.id ≠ id) ∧ u.mem = s.mem) ∧
    (∀ (p : Packet) (g : Nat), s.net.find? (fun q => q.id = id) = some p → p.landed = false → p.held = some g → g ≤ s.gtime →
      (∃ o l, p.cargo = .store (plainBytes o l)) →
      exec (.destAbsentTimeout id) s = .next (refusePacket s p cABSENT) ∧
        ∀ q ∈ (refusePacket s p cABSENT).net, q.id ≠ id)

/-- R299: the deterministic atomics of a word whose interval has ended execute as one batch in ascending key (L, q): each acts on
what those before it left, memory holds what the last one left, and each returns the value that it found. -/
def Obligations.DeterministicAtomicsRunInKeyOrder : Prop :=
  ∀ (s : State) (key : Nat),
    let l := batchOf s key
    let act (w : State) (d : Deferred) : State := { w with mem := writeMasked w.mem (atomAct w d.op d.wide d.key d.opnd d.swap).2 }
    l.Pairwise (fun a b => a.l < b.l ∨ (a.l = b.l ∧ a.q ≤ b.q)) ∧
    (∀ d ∈ l, d ∈ s.deferred ∧ d.key / 8 = key / 8) ∧
    (∀ d ∈ s.deferred, d.key / 8 = key / 8 → (∃ c, d.arrived = some c ∧ c / 1024 < locClock s d.loc / 1024) → d ∈ l) ∧
    ∃ u, exec (.detAtomicBatch key) s = .next u ∧ (∀ d ∈ l, d ∉ u.deferred) ∧ (∀ d ∈ s.deferred, d ∉ l → d ∈ u.deferred) ∧
      (s.bar.errinj.getLsbD 63 = false → s.poison.contains (lineOf key) = false →
        u.mem = (l.foldl act s).mem ∧
        ∀ before d after, l = before ++ d :: after → (∀ e ∈ after, e.core ≠ d.core ∨ e.miss ≠ d.miss) →
          ∀ x ∈ (u.core d.core).net.misses, x.id = d.miss →
            x.data = some (BitVec.ofNat 512 (Memory.readLE (before.foldl act s).mem d.key (if d.wide then 8 else 4))))

/-- R238, R241, R242: the oldest message of QNO leaves through its window, a window message enters the inbox, or the landing
buffer, the heap and the inbox in turn while the inbox is full; that the message which enters the heap as number i takes place i mod 63 is
the model's choice. Where the spec leaves a point of this open, the model's choice or
reading stands (log entries 16 and 17). -/
def Obligations.MessagesMoveInOrder : Prop :=
  ∀ (s : State) (n k id : Nat),
    (∀ (t : Thread) (e : PortSlot) (r : List PortSlot) (v : Vec) (dst : Nat) (peer : Option (BitVec 12)), k < 8 →
      s.thread n k = some t →
      t.qno = e :: r → e.val = some v → (v.setWidth 64 : Word).extractLsb' 62 2 = 0 → messageBad s (v.setWidth 64) = false →
      sendRoute s t.task.rid (v.setWidth 64) = some (dst, peer) → windowOpen s n dst peer = true →
      ∃ u t' p, exec (.qnoDeparture n k) s = .next u ∧ u.thread n k = some t' ∧ t'.qno = r ∧ u.net = s.net ++ [p] ∧
        p.dst = dst ∧ p.peer = peer ∧ isMessage p = true) ∧
    (∀ (p : Packet) (drid dvcn : BitVec 16) (ds : BitVec 3) (v : Vec) (w : Word) (q : Bool) (r : Region) (m : Nat),
      arriving s id = some p → admitOf s p = .take → p.cargo = .msg drid dvcn ds v w q → s.region drid = some r → coreOfVcn r dvcn.toNat = some m →
      (s.core m).net.landing = [] → (s.core m).net.heap = [] → inboxOpen s m = true →
      ∃ u, exec (.messageArrival id) s = .next u ∧
        (u.core m).net.inbox = (s.core m).net.inbox ++ [packetMessage p ds v] ∧ ∀ q ∈ u.net, q.id = id → q.landed = true) ∧
    (∀ (p : Packet) (drid dvcn : BitVec 16) (ds : BitVec 3) (v : Vec) (w : Word) (q : Bool) (r : Region) (m : Nat),
      arriving s id = some p → admitOf s p = .take → p.cargo = .msg drid dvcn ds v w q → s.region drid = some r → coreOfVcn r dvcn.toNat = some m →
      (∀ x ∈ (s.core m).net.landing, x.1 ≠ id) →
      ((s.core m).net.landing ≠ [] ∨ (s.core m).net.heap ≠ [] ∨ inboxOpen s m = false) →
      ((s.core m).net.landing.length < 4 → ∃ u, exec (.messageArrival id) s = .next u ∧
        (u.core m).net.landing = (s.core m).net.landing ++ [(id, packetMessage p ds v)] ∧
        (u.core m).net.inbox = (s.core m).net.inbox ∧ (u.core m).net.heap = (s.core m).net.heap ∧ u.net = s.net ∧ u.mem = s.mem) ∧
      (4 ≤ (s.core m).net.landing.length → exec (.messageArrival id) s = .next s)) ∧
    (s.bar.errinj.getLsbD 63 = false → Good s →
      (∀ (i : Nat) (m : Msg) (r : List (Nat × Msg)), (s.core n).net.landing = (i, m) :: r → (s.core n).net.heap.length < 63 →
        let place := (s.core n).net.spills % 63
        ∃ u, exec (.atticSpill n) s = .next u ∧ (u.core n).net.landing = r ∧
          (u.core n).net.heap = (s.core n).net.heap ++ [(place, m)] ∧ (u.core n).net.spills = (s.core n).net.spills + 1 ∧
          (∀ a, (a < n * 0x80000 + 0x7F040 + 64 * place ∨ n * 0x80000 + 0x7F080 + 64 * place ≤ a) →
            Memory.read u.mem a = Memory.read s.mem a) ∧
          Memory.readLE u.mem (n * 0x80000 + 0x7F040 + 64 * place) 64 = m.data.toNat ∧ ∀ q ∈ u.net, q.id = i → q.landed = true) ∧
      (∀ (place : Nat) (m : Msg) (r : List (Nat × Msg)), (s.core n).net.heap = (place, m) :: r → inboxOpen s n = true →
        ∃ u, exec (.atticReplay n) s = .next u ∧ (u.core n).net.heap = r ∧ u.mem = s.mem ∧
          (u.core n).net.inbox = (s.core n).net.inbox ++
            [{ m with data := BitVec.ofNat 512 (Memory.readLE s.mem (n * 0x80000 + 0x7F040 + 64 * place) 64) }]))

/-- R224, R229, R234, R244: copies move chunk by chunk and complete with their arrival, count and token; WMSET arms its channel
in its turn; a copy whose page failed is abandoned: it and its packets are gone, its token is done, as that of an abandoned instruction, and
its thread takes the report, which is region-fatal in a timed domain. Where the spec leaves a point of this open, the model's
choice or reading stands (log entries 28, 30 and 31). -/
def Obligations.CopiesAndWatermarksComplete : Prop :=
  ∀ (s : State) (n tag i : Nat) (j : Job) (c : CopyCmd),
    (copyJob s n tag = some (j, c, i) → nextCopyTag s n = some tag → chunkInFlight s n tag = none →
      exec (.copyLanding n tag) s = .next (beginChunk s n tag j c i)) ∧
    (copyJob s n tag = some (j, c, i) → nextCopyTag s n = some tag → chunkInFlight s n tag = none → s.bar.errinj.getLsbD 63 = false →
      let src := (chunkSpan c i).1
      let dst := (chunkSpan c i).2.1
      let len := (chunkSpan c i).2.2
      let bytes := Memory.readBytes s.mem (n * 0x80000 + src.toNat) len
      let peer := gRoute s dst
      (∀ keys, c.kind = 2 → keysM s n j.head.rid .w dst len = .ok keys → ∃ u, exec (.copyLanding n tag) s = .next u ∧
        u.mem = writeMasked s.mem (atKeys keys (solid bytes)) ∧
        ∃ q ∈ (u.core n).net.jobs, q.head = j.head ∧ ∃ v, q.kind = .copy tag v (i + 1)) ∧
      (c.kind = 3 → windowOpen s n (gCore dst) peer = true → strayChunks s n tag (gCore dst) peer = false →
        ∃ u p, exec (.copyLanding n tag) s = .next u ∧ u.net = s.net ++ [p] ∧ u.mem = s.mem ∧ p.src = n ∧ p.dst = gCore dst ∧
          p.peer = peer ∧ p.cargo = .chunk tag (plainBytes (gOff dst) bytes) (copyChannel c) (decide (i + 1 = chunkTotal c)) c.bar
            (copyMailbox c))) ∧
    (∀ p : Packet, copyJob s n tag = some (j, c, i) → nextCopyTag s n ≠ some tag → chunkInFlight s n tag = some p →
      exec (.copyLanding n tag) s = .next (landChunk s.tickFresh p.id)) ∧
    (copyJob s n tag = some (j, c, i) → chunkTotal c ≤ i → s.net.any (chunkOf n tag) = false →
      ∃ u, exec (.copyComplete n tag) s = .next u ∧ (∀ x ∈ (u.core n).net.jobs, x.head.id ≠ j.head.id) ∧
        (∀ k t, u.thread n k = some t → t.tid = j.head.tid → j.head.kp ≠ 0 → t.tok[j.head.kp.toNat]? = some .done) ∧
        (c.kind ≠ 3 → c.bar ≠ 0 → u.mem = (arriveAt s n c.bar (8 + j.head.slot % 8) (some j.head.tid)).mem) ∧
        (∀ m : BitVec 6, c.kind ≠ 3 → copyMailbox c = some m → (u.core n).net.mbc[m.toNat] =
          if (s.core n).net.mbc[m.toNat] = 0xFFFFFFFF then 0xFFFFFFFF else (s.core n).net.mbc[m.toNat] + 1) ∧
        ((c.kind = 3 ∨ copyMailbox c = none) → (u.core n).net.mbc = (s.core n).net.mbc)) ∧
    (copyJob s n tag = some (j, c, i) → j.head.asked.isSome = true →
      ∃ u, exec (.engineFailure n tag .page) s = .next u ∧ u.mem = s.mem ∧
        (∀ x ∈ (u.core n).net.jobs, x.head.id ≠ j.head.id) ∧ u.net = s.net.filter (fun p => !chunkOf n tag p) ∧
        (∀ m k t, s.thread m k = some t → t.tid = j.head.tid → j.head.timed = false → ∃ t', u.thread m k = some t' ∧
          t'.regs = t.regs ∧ (∀ r ∈ t.reports, r ∈ t'.reports) ∧
          t'.reports.getLast? = some (.engine cXLATE (missingPage s n j tag c i ||| ((1 : Word) <<< 62))) ∧
          (j.head.kp ≠ 0 → t'.tok[j.head.kp.toNat]? = some .dropped)) ∧
        (∀ r, j.head.timed = true → s.region j.head.rid = some r → r.phase ≠ .ending → (s.core n).cellar.frozen = false →
          ∃ q ∈ u.regions, q.rid = s.faultRoot j.head.rid ∧ q.phase = .ending)) ∧
    (∀ ch base limit, (s.core n).net.jobs.find? (fun x => x.head.id = tag) = some j → j.kind = .wmset ch base limit →
      (s.core n).net.jobs.head? = some j → headReady s n j.head = true → j.head.bad = false →
      ∃ u, exec (.wmsetApply n tag) s = .next u ∧
        (u.core n).net.wmk[ch.toNat]? = some ⟨decide (base ≠ limit), base, limit, base, []⟩ ∧
        ∀ x ∈ (u.core n).net.jobs, x.head.id ≠ tag)

/-- R245 to R247: at a tick that is a multiple of its length a read table takes effect, and every packet of the domain meets its
router. The router's entry for the tick sends it on, to a neighbour nearer its destination, where it stands one tick later; or
delivers it at its destination, when its token is done, and it is readable, as the youngest message of the inbox, four ticks
later; or it is lost and TIMING ends the fault domain. Where the spec leaves a point of this open, the model's choice or reading
stands (log entry 66). -/
def Obligations.ScheduledNetworkTicks : Prop :=
  (∀ (s : State) (n : Nat) (rid : BitVec 16) (d : Domain), s.domains.find? (fun x => x.root = rid) = some d → isTick s d = true →
    exec (.snetHop rid) s = .next ((s.snet.filter (fun p => p.dom = rid)).foldl (fun s p => hopPacket s p d.ticks) s) ∧
    (∀ l h, (s.core n).net.router.dom = some rid → (s.core n).net.router.next = [(l, h)] → d.ticks % l.length = 0 →
      ∃ u, exec (.snldTableEffect n) s = .next u ∧ (u.core n).net.router.table = l ∧ (u.core n).net.router.next = [])) ∧
  ∀ (s : State) (p : SnPacket) (t : Nat),
    let r := (s.core p.at').net.router
    let code (o : Nat) : Nat := (tableEntryAt r.table t).toNat / 2 ^ (3 * o) % 8
    let u := hopPacket s p t
    let gone := s.snet.filter (fun q => q.head.id ≠ p.head.id)
    (p.tick ≠ t → u = s) ∧
    (p.tick = t → p.out = true → u.snet = gone ∧ u.mem = s.mem ∧
      ∃ m : Msg, (u.core p.dst).net.inbox = (s.core p.dst).net.inbox ++ [m] ∧ m.data = p.data ∧ m.slot = p.dslot) ∧
    (p.tick = t → p.out = false → r.dom = some p.dom → p.from'.toNat ≠ 0 →
      (∀ o m, o < 4 → code o = p.from'.toNat → (∀ i, i < o → code i ≠ p.from'.toNat) → neighbour p.at' o = some m →
        distance m p.dst < distance p.at' p.dst →
        u = modSn s p.head.id (fun q => { q with at' := m, from' := entryCode o, tick := t + 1 })) ∧
      (code 4 = p.from'.toNat → (∀ i, i < 4 → code i ≠ p.from'.toNat) → p.at' = p.dst →
        (s.core p.dst).net.inbox.length + pendingSnet s p.dst < 64 →
        u.snet = s.snet.map (fun q => if q.head.id = p.head.id then { q with out := true, tick := t + 4 } else q) ∧
          u.mem = s.mem ∧ ∀ n, TokenDone u n p.head) ∧
      (∀ q, s.region p.head.rid = some q → q.phase ≠ .ending →
        ((∀ o, o < 5 → code o ≠ p.from'.toNat) ∨
          (code 4 = p.from'.toNat ∧ (∀ i, i < 4 → code i ≠ p.from'.toNat) ∧ p.at' ≠ p.dst)) →
        u.snet = gone ∧ ∃ x ∈ u.regions, x.rid = s.faultRoot p.head.rid ∧ x.phase = .ending))

/-! ### The device's steps: gang engine, dispatch, starts, contexts (R32 to R46, R62 to R73, R142 to R168, R192, R223, R259, R297) -/

/-- R148, R151 to R153, R155, R157, R160 to R162: the steps of a gang operation of one core complete: a load or clear at its last
clock, the start of an MXRUN at its barrier, a row's chunks, the merge of a step, the emission, a snapshot. R156: an arrival is merged
into an element on the common floor of the window, what is shifted out and what saturates being flagged; R157: a step merges the member's
partial into every element of its set, and leaves the other set alone. R159, R160: an element's output is its value rounded once to
nearest even, saturated in the integer formats, and the chunks hold the outputs in row order. That the image of an MXLDB is read whole in
its last clock is the model's choice (log entry 64). Where the spec leaves a point of this open, the model's choice or reading stands (log
entries 25 and 27). -/
def Obligations.GangEngineStepsComplete : Prop :=
  ∀ (s : State) (n id : Nat),
    let e := (s.core n).eng
    (∀ q r mask addr, e.queue = q :: r → q.left = some 0 → q.kind = .mxldb mask addr → s.bar.errinj.getLsbD 63 = false →
      ∃ u, exec (.mxldbLoad n) s = .next u ∧ (u.core n).mx = loadImage s.mem n addr.toNat mask (s.core n).mx ∧
        (u.core n).eng.queue.length = r.length ∧ u.mem = s.mem ∧ TokenDone u n q.head) ∧
    (∀ q r set, e.queue = q :: r → q.left = some 0 → q.kind = .mxclr set →
      ∃ u, exec (.mxclrDone n) s = .next u ∧ (u.core n).mx = clearSet (s.core n).mx set ∧
        (∀ i, elemOf (u.core n).mx set i = Elem.clear ∧ elemOf (u.core n).mx (!set) i = elemOf (s.core n).mx (!set) i) ∧
        (u.core n).eng.queue.length = r.length ∧ u.mem = s.mem ∧ TokenDone u n q.head) ∧
    (∀ k t rd v w, e.rds.find? (fun r => r.head.id = id) = some rd → rd.got = some (v, w) → s.thread n k = some t →
      t.tid = rd.head.tid → ∃ u t', exec (.mxrdDone n id) s = .next u ∧ u.thread n k = some t' ∧
        t'.regs = (t.regs.put (.v rd.d) v).put (b4reg (if rd.flags then 0 else rd.b)) (w.setWidth 512) ∧ t'.ctl = t.ctl ∧
        (∀ x ∈ (u.core n).eng.rds, x.head.id ≠ id) ∧ u.mem = s.mem ∧ TokenDone u n rd.head) ∧
    (∀ h set m cfg c v tiles, gangSize s n = 1 → headRun s n = some (h, set, m, cfg) → mxArrived s n = true →
      s.bar.errinj.getLsbD 63 = false → checkMember s n 0 h m cfg = some (c, .ok v tiles) →
      ∃ u r, exec (.mxrunStart n) s = .next u ∧ (u.core n).eng.run = some r ∧ r.head = h ∧ r.set = set ∧ r.n = m ∧
        r.conf = c ∧ r.pre = 16 ∧ r.begun = 0 ∧ r.done = 0 ∧ r.steps = [] ∧ (u.core n).eng.mxdone = 0 ∧
        (u.core n).eng.mxremn = BitVec.ofNat 16 m ∧ (u.core n).mx = (s.core n).mx ∧ u.mem = s.mem) ∧
    (∀ r, e.run = some r → chunkReady s n = true →
      ∃ u taken rest l, exec (.qmaChunkArrival n) s = .next u ∧ e.qma = taken ++ rest ∧ taken ≠ [] ∧
        taken.length ≤ chunksWanted r ∧ taken.map (fun x => x.val) = l.map some ∧ (u.core n).eng.qma = rest ∧
        (u.core n).eng.run = some { r with buf := r.buf ++ l } ∧ u.mem = s.mem) ∧
    (∀ r, e.run = some r → r.size = 1 → ksOf r.mxcfg = 1 → stepComplete s n = true → s.bar.errinj.getLsbD 63 = false →
      ∃ u, exec (.mxrunStepComplete n) s = .next u ∧ u.mem = s.mem ∧
        (u.core n).mx = mergeStep (winOf r.mxcfg) r.set [((s.core n).mx, stepRowsOf (s.core n))] (s.core n).mx ∧
        (u.core n).eng.mxdone = e.mxdone + 1 ∧ (u.core n).eng.mxremn = e.mxremn - 1 ∧
        (r.done + 1 < r.n → (u.core n).eng.run = some { r with steps := r.steps.drop 1, done := r.done + 1 }) ∧
        (r.n ≤ r.done + 1 → r.conf.out = false → (u.core n).eng.run = none ∧ TokenDone u n r.head) ∧
        (r.n ≤ r.done + 1 → r.conf.out = true → ∃ q, (u.core n).eng.run = some q ∧ q.tail = some 16)) ∧
    (∀ r, e.run = some r → r.tail = some 0 →
      ∃ u, exec (.mxrunEmission n) s = .next u ∧ (u.core n).eng.run = none ∧ u.mem = s.mem ∧ TokenDone u n r.head ∧
        (u.core n).eng.emit = (if (n - r.base) % ksOf r.mxcfg = 0 then
          emitChunks (outfmtOf r.mxcfg) r.conf.osh (s.core n).mx r.set else [])) ∧
    (∀ (win : Nat) (acc arr : Elem),
      let m := mergeElem win acc arr
      let t := if acc.empty then arr.t else max acc.t arr.t
      let floor := t - win
      let onto (x : Elem) : Int :=
        if x.empty then 0 else if x.f ≤ floor then x.s / 2 ^ (floor - x.f).toNat else x.s * 2 ^ (x.f - floor).toNat
      let lost (x : Elem) : Bool := !x.empty && decide (x.f ≤ floor) && decide (x.s % 2 ^ (floor - x.f).toNat ≠ 0)
      let sum := onto acc + onto arr
      let top : Int := 2 ^ (win + 15)
      (arr.empty = true → m = { acc with
        lsa := acc.lsa || arr.lsa, lsp := acc.lsp || arr.lsp, ovf := acc.ovf || arr.ovf, nan := acc.nan || arr.nan }) ∧
      (arr.empty = false → m = ⟨max (-top) (min (top - 1) sum), floor, t, false, acc.lsa || arr.lsa || lost acc || lost arr,
        acc.lsp || arr.lsp, acc.ovf || arr.ovf || decide (sum < -top ∨ top - 1 < sum), acc.nan || arr.nan⟩)) ∧
    (∀ (win i : Nat) (set : Bool) (x : Matrix) (rows : List RowPack), i < 4096 →
      let y := mergeStep win set [(x, rows)] x
      elemOf y (!set) i = elemOf x (!set) i ∧
      ∀ r, rows[i / 256]? = some r →
        elemOf y set i = mergeElem win (elemOf x set i) (mergeElem win Elem.clear (stepPartial win x r (i % 256)))) ∧
    (∀ (code : Nat) (osh : Int) (x : Elem), code < 6 →
      let v := if x.empty then 0 else x.s
      let nan := [0x7FC00000, 0x7FC0, 0x7E00, 0x7F, 0, 0].getD code 0
      let w := [32, 16, 16, 8, 32, 8].getD code 0
      (x.nan = true → convertElem code osh x = nan) ∧
      (x.nan = false → ∀ f, [fmtF32, fmtBF16, fmtF16, fmtE4M3][code]? = some f →
        convertElem code osh x = (roundTo f 0 (decide (v < 0)) v.natAbs x.f false).1) ∧
      (x.nan = false → 4 ≤ code →
        let d := (osh - x.f).toNat
        let q : Int := if x.f ≤ osh then v / 2 ^ d else v * 2 ^ (x.f - osh).toNat
        let part : Int := if x.f ≤ osh then v % 2 ^ d * 2 else 0
        let near : Int := if 2 ^ d < part ∨ (part = 2 ^ d ∧ q % 2 = 1) then q + 1 else q
        convertElem code osh x = (max (-(2 ^ (w - 1))) (min (2 ^ (w - 1) - 1) near) % 2 ^ w).toNat) ∧
      ∀ (m : Matrix) (set : Bool) (c j : Nat), c * (512 / w) + j < 4096 → j < 512 / w →
        ∃ chunk, (emitChunks code osh m set)[c]? = some chunk ∧
          laneOf w chunk j = convertElem code osh (elemOf m set (c * (512 / w) + j)) % 2 ^ w)

/-- R28, R31 to R33, R37 to R41, R45, R46, R72, R73, R93, R249, R295, R297: a record enters its dispatch unit, is ready once its
readiness pairs are met, and is placed with its starting registers; a kernel boundary and a Ringmaster launch complete. Where the
spec leaves a point of this open, the model's choice or reading stands (log entries 5, 33, 54 and 55). -/
def Obligations.RecordsAreReadiedAndPlaced : Prop :=
  ∀ (s : State) (d : BitVec 2) (id n k : Nat) (e : Entry) (r : Region), s.region e.rid = some r →
    let t := parseTrec e.trec
    ((s.die d).disp.find? (fun x => x.id = id) = some e → e.ready = none → e.saved = none → e.waiting = none →
      s.bar.errinj.getLsbD 63 = false → (∀ p ∈ t.used, watchPair s d r p = .met) →
      ∃ u, exec (.taskReady d id) s = .next u ∧ (∀ x ∈ (u.die d).disp, x.id = id → x.ready = some s.sched.clock) ∧
        u.mem = s.mem ∧ u.cores = s.cores) ∧
    ((s.die d).disp.find? (fun x => x.id = id) = some e → e.ready = none → e.saved = none → e.waiting = none →
      s.bar.errinj.getLsbD 63 = false → watchRecord s d r t = .later →
      ∃ u, exec (.taskReady d id) s = .next u ∧ u.mem = s.mem ∧ u.cores = s.cores ∧ ∀ x ∈ (u.die d).disp, x.id = id →
        ∃ y ∈ (s.die d).disp, y.id = id ∧ x.trec = y.trec ∧ x.ready = y.ready ∧ x.waiting = y.waiting) ∧
    (∀ p, s.net.find? (fun p => p.id = id) = some p → p.cargo = .record d e.trec → p.landed = false →
      firstOfLane s p = true → (s.die d).disp.length < 16384 →
      t.target p.head.rid = e.rid → r.phase ≠ .ending → r.det = false → t.used = [] →
      ∃ u, exec (.recordEnqueue d id) s = .next u ∧ (∃ q, u.region e.rid = some q ∧ q.seqn = r.seqn + BitVec.ofNat 64 t.members) ∧
        ∃ x ∈ (u.die d).disp, x.trec = e.trec ∧ x.rid = e.rid ∧ x.seq = r.seqn ∧ x.spawner = some p.src ∧
          x.ready = some s.sched.clock) ∧
    (∀ p, placeNow s d = some (e, p) → e.saved = none → r.det = false → p.slot < 8 →
      ∃ u, (p.size = 1 → exec (.taskPlace d) s = .next u) ∧ (1 < p.size → exec (.gangPlace d) s = .next u) ∧
        u.mem = s.mem ∧ (∀ x ∈ (u.die d).disp, x.id ≠ e.id) ∧
        ∀ i, i < p.size → ∃ t', u.thread (p.core + i) p.slot = some t' ∧ t'.task.rid = r.rid ∧ t'.task.member = i ∧
          t'.regs = startRegs t.arg (e.seq + BitVec.ofNat 64 i) t.c0 t.c1 t.c2 i ∧ t'.ctl.pc = t.entry ∧
          t'.ctl.ths = startThs t.tflags) ∧
    (∃ u, exec (.gangPressing d) s = .next u ∧ u.mem = s.mem ∧ u.cores = s.cores ∧
      ∀ x ∈ (s.die d).disp, (∃ c, x.first = some c ∧ c + pressAfter s x.rid ≤ s.sched.clock) →
        ∃ y ∈ (u.die d).disp, y.id = x.id ∧ y.press = true) ∧
    (∀ th, s.thread n k = some th → th.life.started = false →
      ∃ u t', exec (.taskStart n k) s = .next u ∧ u.thread n k = some t' ∧ t'.life.started = true ∧ t'.regs = th.regs ∧
        t'.ctl = th.ctl ∧ t'.pipe = th.pipe ∧ u.mem = s.mem) ∧
    (r.phase ≠ .ending → r.atRest = false → restful s e.rid = true →
      ∃ u q, exec (.kernelBoundary e.rid) s = .next u ∧ u.region e.rid = some q ∧ q.atRest = true ∧ q.restAt = s.gtime ∧
        q.detNext = [] ∧ q.digest = (openManifest s e.rid).isSome ∧ u.mem = s.mem ∧ u.cores = s.cores) ∧
    (∀ (x : BitVec 8) (v : Vec), let y := rmGet s d x; let slot := (y.ctl.extractLsb' 0 3).toNat; let c := parseTrec v
      y.ctl.getLsbD 7 = true → rmDue y ≤ s.gtime → y.rid = e.rid → r.phase = .live → placing s r = true →
      s.bar.errinj.getLsbD 63 = false → rmRecord s d r y.trec = some v →
      rmValid r c = true → r.timed = true → r.tslots.getLsbD slot = true → (rmCores r y).length = y.vcnn.toNat →
      (rmCores r y).Nodup → (∀ m ∈ rmCores r y, slotFree s r m slot = true) →
      ∃ u, exec (.ringmasterLaunch d x) s = .next u ∧
        rmGet u d x = (if y.period = 0 then rmAdvance y else armStart s (rmAdvance y)) ∧
        (s.gtime ≤ rmDue (rmAdvance y) → rmGet u d x = rmAdvance y) ∧
        ∀ i m, (rmCores r y)[i]? = some m → ∃ t', u.thread m slot = some t' ∧ t'.task.rid = e.rid ∧ t'.ctl.pc = c.entry ∧
          t'.regs = startRegs c.arg (r.seqn + BitVec.ofNat 64 i) (c.c0 + BitVec.ofNat 16 i) c.c1 c.c2 0)

/-- R16, R20, R21, R272, R303 to R308: a start is accepted with its region, cores, tag and time, or refused with its status and
RID; requests arm, manifests grow record by record, and signed copies and measurements are returned. Where the spec leaves a
point of this open, the model's choice or reading stands (log entries 7, 15, 34, 37, 56 and 57). -/
def Obligations.StartsAndManifestsComplete : Prop :=
  ∀ (s : State) (f : Fn) (val : Word) (rid : BitVec 16),
    (accepting s = true → (s.fnRegs f).startWait = none → s.bar.errinj.getLsbD 63 = false →
      let w := startReads s f val
      (∀ st x, judge w f val true = .refuse st x → ∃ u, exec (.regstart f val) s = .next u ∧ u.regions = s.regions ∧ u.mem = s.mem ∧
        (u.fnRegs f).regstat = ((s.fnRegs f).regstat &&& 0x100) ||| BitVec.ofNat 64 (x.toNat * 2 ^ 48 + st)) ∧
      (∀ r, judge w f val true = .start r none → (∀ va b, requestBlock (readRequest w f r) f r ≠ .error (.ask va b)) → Good s →
        ∃ u, exec (.regstart f val) s = .next u ∧
        (∃ q ∈ u.regions, q.rid = r.rid ∧ q.cores = r.cores ∧ q.tag = r.tag ∧ q.started = s.gtime ∧ q.phase = r.phase) ∧
        Memory.readLE u.mem (r.rcb + 128) 8 = 1 ∧ u.vault.lastTag = r.tag ∧
        (u.fnRegs f).regstat = ((s.fnRegs f).regstat &&& 0x100) ||| BitVec.ofNat 64 (r.rid.toNat * 2 ^ 48 + 1))) ∧
    ((accepting s = false ∨ (s.fnRegs f).startWait ≠ none) → ∃ u, exec (.regstart f val) s = .next u ∧ u.regions = s.regions ∧
      (u.fnRegs f).regstat = (s.fnRegs f).regstat ||| 0x100) ∧
    (∃ u, exec (.manreq f val) s = .next u ∧ u.mem = s.mem ∧ u.regions = s.regions ∧
      ((s.fnRegs f).manreq = none → (u.fnRegs f).manreq = some val ∧ (u.fnRegs f).manstat = (s.fnRegs f).manstat ||| 0x200) ∧
      ((s.fnRegs f).manreq ≠ none → (u.fnRegs f).manreq = (s.fnRegs f).manreq ∧
        (u.fnRegs f).manstat = (s.fnRegs f).manstat ||| 0x100)) ∧
    (∀ r m e l, s.region rid = some r → s.manifests.find? (fun m => some m.id = r.manifest && !m.closed) = some m →
      m.ranges[m.recs.length]? = some e → s.bar.errinj.getLsbD 63 = false →
      rangeBytes (devNotes s r.pasid e.2.2.toNat (e.2.2.toNat + e.2.1.toNat) r.tag) r.pasid e.2.2.toNat e.2.1.toNat = .ok l →
      ∃ u, exec (.manifestRangeHash rid) s = .next u ∧ u.mem = s.mem ∧
        ∃ q ∈ u.manifests, q.id = m.id ∧ q.recs = m.recs ++ [rangeRecord e l] ∧ q.ranges = m.ranges) ∧
    (∀ r m, s.region rid = some r → openManifest s rid = some m → r.digest = true → m.ranges.length ≤ m.recs.length →
      s.bar.errinj.getLsbD 63 = false →
      let pages := m.marks.foldl (fun l p => insertNat p l) []
      pagesAsk s r.pasid pages = none →
      let l := (digestPages (pages.foldl (fun w p => devNote w r.pasid (p * 4096) 4096 r.tag false) s) r.pasid pages).1
      ∃ u p, exec (.pageDigestDone rid) s = .next u ∧ u.region rid = some p ∧ p.digest = false ∧ u.mem = s.mem ∧
        ∃ q ∈ u.manifests, q.id = m.id ∧ q.bounds = m.bounds + 1 ∧ q.marks = [] ∧
          q.chain = Config.sha384 (leBytes m.chain.toNat 48 ++ l)) ∧
    (∀ m, regsOpen s = true → s.manifests.find? (fun m => m.id = val.toNat) = some m →
      ∃ u, exec (.manifestFetch .pf val 0) s = .next u ∧ u.mem = s.mem ∧
        u.outputs = s.outputs ++ [.reply .pf 0x00 ((manifestBytes s m).take 1024)]) ∧
    (∀ b : BitVec 8, regsOpen s = true → 1 ≤ b.toNat → b.toNat ≤ 4 →
      exec (.getMeasurements f b) s = .next (s.emit (.reply f 0x00 (Config.measurement b.toNat))))

/-- R62 to R64, R192, R223, R251, R255, R259, R263, R322: a reported cause is taken, a context is saved, debug stops are
requested, reported and released, and a timed domain freezes and resumes. Where the spec leaves a point of this open, the model's
choice or reading stands (log entries 19, 38 and 39). -/
def Obligations.ContextStepsComplete : Prop :=
  ∀ (s : State) (n k : Nat) (t : Thread) (val : Word) (rid : BitVec 16),
    (∀ rep r, s.thread n k = some t → reportNow s n t = some rep → s.frozenFor t = false → s.region t.task.rid = some r →
      isFatal s t (reportInfo rep).1 = false → ∃ u t', exec (.trapTaken n k) s = .next u ∧ u.thread n k = some t' ∧
        t'.mode = 1 ∧ t'.ctl.pc = r.hvec ∧ t'.ctl.trapv = (reportInfo rep).2.1 ∧ t'.ctl.trappc = pcField t.ctl.pc ∧
        t'.ctl.trapc.extractLsb' 0 16 = (reportInfo rep).1 ∧ t'.regs = t.regs ∧ t'.tok = t.tok) ∧
    (∀ va, s.thread n k = some t → t.life.saving = some va → t.life.faulted = none → saveReady s n t = true → va ≠ 0 →
      dispatchFull s (dieOf n) = false → Good s → s.bar.errinj.getLsbD 63 = false →
      ∃ u f, exec (.contextSave n k) s = .next u ∧ u.thread n k = none ∧
        Memory.readBytes u.mem (2 ^ 40 + 0x3FC0000000 + 4096 * f) 0xE00 = tailBytes t (liftValues t.regs (sortFlights t.pipe.flights)) ∧
        (∀ a, (a < 2 ^ 40 + 0x3FC0000000 + 4096 * f ∨ 2 ^ 40 + 0x3FC0000000 + 4096 * f + 0xE00 ≤ a) →
          Memory.read u.mem a = Memory.read s.mem a) ∧
        ∃ e ∈ (u.die (BitVec.ofNat 2 (dieOf n))).disp, e.saved = some t ∧ e.waiting ≠ none ∧ e.rid = t.task.rid ∧ e.frame = some f) ∧
    (s.thread n k = some t → t.life.saving = some 0 → t.life.faulted = none → saveReady s n t = true →
      t.life.resuming = false → reading s n t.tid = false → Good s → s.bar.errinj.getLsbD 63 = false →
      ∃ u t', exec (.contextSave n k) s = .next u ∧ u.thread n k = some t' ∧
        t'.life.resuming = true ∧ t'.regs = t.regs ∧ t'.ctl = t.ctl ∧ t'.pipe.flights = [] ∧
        Memory.readBytes u.mem (keyL n (tailOf k)) 0xE00 = tailBytes t (liftValues t.regs (sortFlights t.pipe.flights))) ∧
    (let slot := (val.extractLsb' 29 3).toNat
     let named := namedThread s (val.extractLsb' 48 16) (val.extractLsb' 32 16).toNat slot
     (named = none → exec (.debugStop val) s = .next (dbgDrop s) ∧ exec (.debugRelease val) s = .next (dbgDrop s)) ∧
     (named = some (n, t) → stopActive s = false → t.timed = false →
       ∃ u j t', exec (.debugStop val) s = .next u ∧ u.bar.dbgwho = some t.tid ∧ u.thread n j = some t' ∧ t'.tid = t.tid ∧
         t'.life.stopReq = true ∧ u.mem = s.mem) ∧
     (named = some (n, t) → s.bar.dbgwho = some t.tid → t.timed = false → (t.life.stopped = false ∨ t.life.stopReq = true) →
       ∃ u t', exec (.debugRelease val) s = .next u ∧ u.bar.dbgwho = none ∧ u.thread n slot = some t' ∧
         t'.life.stopped = false ∧ t'.life.stopReq = false ∧ t'.regs = t.regs ∧ t'.ctl = t.ctl ∧ u.mem = s.mem) ∧
     (named = some (n, t) → s.bar.dbgwho = some t.tid → t.timed = false → t.life.stopped = true → t.life.stopReq = false →
       s.bar.errinj.getLsbD 63 = false → (restoreTail s n slot t).isSome = true → ∃ u t', exec (.debugRelease val) s = .next u ∧ u.bar.dbgwho = none ∧
         u.thread n slot = some t' ∧ t'.life.stopped = false ∧ t'.regs = tailRegs s.mem (keyL n (tailOf slot)) ∧
         u.mem = s.mem)) ∧
    (s.thread n k = some t → t.timed = false → t.life.stopped = true → t.life.stopReq = true → t.pipe.flights = [] →
      saveReady s n t = true → reading s n t.tid = false → ∃ u t', exec (.debugStopDone n k) s = .next u ∧ u.thread n k = some t' ∧
        t'.life.stopReq = false ∧ t'.life.stopped = true ∧ t'.regs = t.regs ∧ u.bar.dbgpc = t.ctl.pc ∧
        u.bar.dbgstat = (s.bar.dbgstat &&& 0x10000) ||| 0x8000 ||| (originOf n).setWidth 64) ∧
    (∀ d, s.domains.find? (fun d => d.root = rid) = some d →
      (∀ f, d.freezeAt = some f → f ≤ domClock s d → d.frozen = false → ∃ u q, exec (.domainFreeze rid) s = .next u ∧
        u.domains.find? (fun d => d.root = rid) = some q ∧ q.frozen = true ∧ q.freezeAt = none ∧ q.ticks = d.ticks ∧
        q.since = f ∧ u.mem = s.mem) ∧
      (∀ g, d.resumeAt = some g → g ≤ domClock s d → d.frozen = true → ∃ u q, exec (.domainResume rid) s = .next u ∧
        u.domains.find? (fun d => d.root = rid) = some q ∧ q.frozen = false ∧ q.resumeAt = none ∧ q.ticks = d.ticks ∧
        u.mem = s.mem))

/-- R52, R53, R57, R68, R82, R91, R178, R208, R233, R435 to R441: a line fills the bundle buffer; the steps of a slot's turn
complete: its results land, its wait is evaluated (that for a mailbox at the end of the clock, after the clock's landings), and
with nothing to wait for it tries its bundle. A WAITA or WAITB ends in the turn that reads the word or the phase changed; a WAITA of
class M and a SEQWAIT end by the notice of the home slice, a SEQWAIT with its predicate 1 at poison and 0 when its counter is met. Where the spec leaves a point of this open, the model's choice or reading stands
(log entries 4, 5 and 12). -/
def Obligations.SlotTurnStepsComplete : Prop :=
  ∀ (s : State) (n k key : Nat) (t : Thread), s.thread n k = some t →
    (s.bar.errinj.getLsbD 63 = false →
      ∃ u, exec (.bundleLineFill n key) s = .next u ∧ u.mem = s.mem ∧ u.thread n k = some t ∧
      bufferedLine (u.core n) key = some ⟨key / 128 * 128, Memory.readBytes s.mem (key / 128 * 128) 128⟩) ∧
    ((∀ m ∈ (s.core n).net.misses, m.tid ≠ t.tid) → t.life.saving = none →
      exec (.resultLands n k) s = .next (landTurn s n k)) ∧
    (s.frozenFor t = false → mayReport s n t = true → t.pipe.fetchAt ≤ s.coreClock n → t.pipe.wait = .none → t.pipe.waitLeft = 0 →
      exec (.holdRelease n k) s = .next (issueBundle s n k t)) ∧
    (∀ pd x past, t.pipe.wait = .waitt pd x past → ∃ u t', exec (.waitComplete n k) s = .next u ∧ u.thread n k = some t' ∧
      u.mem = s.mem ∧ (s.gtime < x.toNat → t' = t) ∧
      (x.toNat ≤ s.gtime → t'.pipe.wait = .none ∧
        t'.regs = t.regs.put (.p pd) (if past = true ∨ x.toNat + 214 ≤ s.gtime then 1 else 0))) ∧
    (∀ mb c, t.pipe.wait = .waitmb mb c → exec (.waitComplete n k) s = .next { s with cur := Cursor.idle } ∧
      (releasesDone t = true → c ≤ (s.core n).net.mbc[mb.toNat] → ∃ t',
        (evalMailbox s n k).thread n k = some t' ∧ t'.pipe.wait = .none ∧ t'.regs = t.regs ∧
        ((evalMailbox s n k).core n).net.mbc[mb.toNat] = (s.core n).net.mbc[mb.toNat] - c ∧ (evalMailbox s n k).mem = s.mem)) ∧
    (∀ mask, t.pipe.wait = .waitk mask → releasesDone t = true →
      (∀ j, j < 7 → mask.getLsbD j = true → t.tok[j + 1]? ≠ some .pending) →
      ∃ u t', exec (.waitComplete n k) s = .next u ∧ u.thread n k = some t' ∧ t'.pipe.wait = .none ∧ t'.regs = t.regs ∧
        u.mem = s.mem ∧ ∀ j, j < 7 → t'.tok[j + 1]? = if mask.getLsbD j then some .free else t.tok[j + 1]?) ∧
    (s.bar.errinj.getLsbD 63 = false →
      let after (f : Thread → Prop) : Prop := ∃ u t', exec (.waitComplete n k) s = .next u ∧ u.thread n k = some t' ∧ u.mem = s.mem ∧ f t'
      let word (o len : Nat) : Nat := Memory.readLE s.mem (n * 0x80000 + o) len
      let told (since near far key : Nat) : Prop := since + (if homeSlice key / 8 = dieOf n then near else far) < s.coreClock n + 16
      (∀ a b, t.pipe.wait = .waita a b → t.pipe.watch = none → a.toNat % 8 = 0 → a.toNat + 8 ≤ 0x78000 →
        after (fun t' => (word a.toNat 8 = b.toNat → t' = t) ∧ (word a.toNat 8 ≠ b.toNat → t'.pipe.wait = .none ∧ t'.regs = t.regs))) ∧
      (∀ a b, t.pipe.wait = .waitb a b →
        after (fun t' => (word (a.toNat + 8) 4 = b.toNat % 2 ^ 32 → t' = t) ∧
          (word (a.toNat + 8) 4 ≠ b.toNat % 2 ^ 32 → releasesDone t = true → t'.pipe.wait = .none ∧ t'.regs = t.regs))) ∧
      (∀ a b key since past, t.pipe.wait = .waita a b → t.pipe.watch = some (key, some (since, past)) → told since 64 128 key →
        after (fun t' => t'.pipe.wait = .none ∧ t'.regs = t.regs)) ∧
      (∀ pd i th key, t.pipe.wait = .seqwait pd i th → t.pipe.watch = none →
        spotM s n (pasidOf s t.task.rid) .r none (counterAddr s t.task.rid i) = .gen key → poisoned s key = false →
        let c := Memory.readLE s.mem key 8
        after (fun t' =>
          (c < 2 ^ 63 → c < th.toNat → t'.pipe.wait = t.pipe.wait ∧ t'.pipe.watch = some (key, none) ∧ t'.regs = t.regs) ∧
          ((2 ^ 63 ≤ c ∨ th.toNat ≤ c) →
            (t'.pipe.wait = t.pipe.wait ∧ t'.pipe.watch = some (key, some (s.coreClock n, decide (2 ^ 63 ≤ c))) ∧ t'.regs = t.regs) ∨
            (t'.pipe.wait = .none ∧ t'.regs = t.regs.put (.p pd) (if 2 ^ 63 ≤ c then 1 else 0))))) ∧
      (∀ pd i th key, t.pipe.wait = .seqwait pd i th → t.pipe.watch = some (key, none) →
        let c := Memory.readLE s.mem key 8
        ∃ t', (notifyCounter s key).thread n k = some t' ∧ t'.regs = t.regs ∧ t'.pipe.wait = t.pipe.wait ∧ t'.pipe.watch =
          some (key, if 2 ^ 63 ≤ c then some (s.coreClock n, true) else if th.toNat ≤ c then some (s.coreClock n, false) else none)) ∧
      (∀ pd i th key since bad, t.pipe.wait = .seqwait pd i th → t.pipe.watch = some (key, some (since, bad)) → told since 24 64 key →
        after (fun t' => (releasesDone t = false → t' = t) ∧
          (releasesDone t = true → t'.pipe.wait = .none ∧ t'.regs = t.regs.put (.p pd) (if bad then 1 else 0)))))

/-! ### Regions, faults and the Vault (R260 to R265, R268 to R291, R312, R316) -/

/-- R168, R260 to R265: region operations that pass their checks complete: a park or eviction begins and ends, a resume or
restore brings the region back, a teardown or fault ends it with its descendants, at once or, with its tasks gone at once, when the
counters whose pages are still to come are poisoned, and an interrupt is reported to its thread.
Where the spec leaves a point of this open, the model's choice or reading stands (log entries 35, 36 and 39). -/
def Obligations.RegionOperationsComplete : Prop :=
  ∀ (s : State) (f : Fn) (val : Word) (rid : BitVec 16) (r : Region),
    let area := (val.extractLsb' 20 28).toNat * 2 ^ 20
    let pages := List.range (256 * r.cores.length)
    let back : Region := { r with area := area, phase := .restoring }
    let busy (u : State) : Prop := (u.fnRegs f).regopst.getLsbD 9 = true ∧ u.mem = s.mem
    (Operates s f val r →
      (anyTimed s r.rid = false → r.phase = .live →
        (∃ u, exec (.park f val) s = .next u ∧ InPhase u r.rid .parking ∧ busy u) ∧
        ∃ u q, exec (.evict f val) s = .next u ∧ u.region r.rid = some q ∧ q.phase = .evicting ∧ q.area = area ∧ busy u) ∧
      (anyTimed s r.rid = true → exec (.park f val) s = .next (opStatus s f r.rid 0x22) ∧
        exec (.evict f val) s = .next (opStatus s f r.rid 0x22)) ∧
      (r.phase = .parked → ancestorsPlaced s r = true → coresFree s r.rid .parked = true →
        ∃ u q, exec (.resume f val) s = .next u ∧ u.region r.rid = some q ∧ q.phase = .live ∧ q.taken = [] ∧ OpEnds u f 0x01) ∧
      (r.phase = .evicted → r.evicted ≠ [] → ancestorsPlaced s r = true → coresFree s r.rid .evicted = true →
        slotsFree s r = true → s.bar.errinj.getLsbD 63 = false →
        (∀ va x, imageKeys s back .r pages = .error (.ask va x) →
          ∃ u, exec (.restore f val) s = .next u ∧ InPhase u r.rid .restoring ∧ busy u) ∧
        (∀ keys, imageKeys s back .r pages = .ok keys → (∃ e ∈ r.seals, sealBad s keys e.1 e.2 = true) →
          ∃ u, exec (.restore f val) s = .next u ∧ InPhase u r.rid .evicted ∧ OpEnds u f 0x26) ∧
        (∀ keys, imageKeys s back .r pages = .ok keys → (∀ e ∈ r.seals, sealBad s keys e.1 e.2 = false) →
          (∀ e ∈ r.evicted, ∀ k, k < 8 → (e.2.slots[k]?).join = none) →
          ∃ u, exec (.restore f val) s = .next u ∧ InPhase u r.rid .live ∧ OpEnds u f 0x01)) ∧
      (r.phase ≠ .ending →
        let w := opBusy (beginEnd s r.rid 2) f r.rid
        (poisonPending w r.rid = false → ∃ u, exec (.teardown f val) s = .next u ∧
          (∀ q ∈ u.regions, q.rid ∉ subtreeIds s r.rid) ∧ u.region r.rid = none ∧ OpEnds u f 0x01) ∧
        (poisonPending w r.rid = true → exec (.teardown f val) s = .next w ∧ InPhase w r.rid .ending ∧
          (w.fnRegs f).regopst.getLsbD 9 = true ∧ ∀ n k t, w.thread n k = some t → t.task.rid ∉ subtreeIds s r.rid))) ∧
    (s.region rid = some r → busyFn s rid = some f → s.bar.errinj.getLsbD 63 = false →
      (r.phase = .parking → nothingRuns s rid = true →
        ∃ u, exec (.parkDone rid) s = .next u ∧ InPhase u rid .parked ∧ OpEnds u f 0x01 ∧ u.mem = s.mem) ∧
      (∀ keys, r.phase = .evicting → evictReady s r = true → imageKeys s r .w pages = .ok keys →
        ∃ u q, exec (.evictDone rid) s = .next u ∧ u.region rid = some q ∧ q.phase = .evicted ∧ OpEnds u f 0x01 ∧
          q.evicted.length = r.cores.length ∧
          ∀ n ∈ r.cores, ∀ k t, u.thread n k = some t → t.task.rid ∉ subtreeIds s rid)) ∧
    (s.region rid = some r → endDue s r = true →
      let w := beginEnd s rid 3
      (poisonPending w rid = false →
        ∃ u, exec (.faultDomainEnd rid) s = .next u ∧ u.region rid = none ∧ ∀ q ∈ u.regions, q.rid ∉ subtreeIds s rid) ∧
      (poisonPending w rid = true → exec (.faultDomainEnd rid) s = .next w ∧ InPhase w rid .ending ∧
        ∀ n k t, w.thread n k = some t → t.task.rid ∉ subtreeIds s rid)) ∧
    (let slot := (val.extractLsb' 29 3).toNat
     ∀ n t, fnOwns s f (val.extractLsb' 48 16) = true →
      namedThread s (val.extractLsb' 48 16) (val.extractLsb' 32 16).toNat slot = some (n, t) →
      ∃ u t', exec (.thrint f val) s = .next u ∧ u.thread n slot = some t' ∧ u.mem = s.mem ∧ t'.regs = t.regs ∧ t'.ctl = t.ctl ∧
        t'.reports = t.reports ++ [.preempt (val.extractLsb' 0 16)])

/-- R250, R265, R269, R270, R280 to R284, R289 to R291: staged records reach the ring, a freeze wave freezes a Cellar, fatal
faults freeze and end their fault domain or the whole package, the Vault copies and unfreezes, and serves its mailbox. Where the
spec leaves a point of this open, the model's choice or reading stands (log entries 5, 8, 21, 40, 41 and 42). -/
def Obligations.FaultsCellarsAndVaultComplete : Prop :=
  ∀ (s : State) (p : Place) (d : BitVec 2) (n k : Nat) (cause : BitVec 16) (val : Word) (org : BitVec 12) (fn : Fn)
    (voff : BitVec 32) (form : Byte),
    (∃ u, exec (.cellarRecordWrite (.die d)) s = .next u ∧ (u.die d).cellar = writeTwo 16384 s.gtime (s.die d).cellar ∧
      ((s.die d).cellar.incoming = [] → ∃ j, j ≤ 2 ∧ (u.die d).cellar.staging = (s.die d).cellar.staging.drop j) ∧
      u.mem = s.mem ∧ u.cores = s.cores) ∧
    ((s.core n).ended = [] → (∀ j t, s.thread n j = some t → t.qev = []) →
      ∃ u, exec (.cellarRecordWrite (.core n)) s = .next u ∧ (u.core n).cellar = writeTwo 1024 s.gtime (s.core n).cellar ∧
        u.mem = s.mem) ∧
    (∃ u, exec (.freezeWaveArrival p org) s = .next u ∧ u.mem = s.mem ∧ (cellarAt u p).frozen = true ∧
      ((cellarAt s p).frozen = true → cellarAt u p = cellarAt s p) ∧
      ((cellarAt s p).frozen = false → (cellarAt u p).staging = [])) ∧
    (∃ u, exec (.deviceFatal cause) s = .next u ∧ u.bar.fatal = true ∧ ∀ r ∈ u.regions, r.phase = .ending) ∧
    (0x20 ≤ cause.toNat → ∃ u, exec (.fatalDetect n k cause val) s = .next u ∧ u.bar.fatal = true ∧
      (∀ r ∈ u.regions, r.phase = .ending) ∧
      ∀ r ∈ s.regions, r.cause = none → ∃ q ∈ u.regions, q.rid = r.rid ∧ q.cause = some cause ∧ q.causev = val) ∧
    (∀ t r, cause.toNat < 0x20 → s.thread n k = some t → s.region t.task.rid = some r → (s.core n).cellar.frozen = false →
      ∃ u, exec (.fatalDetect n k cause val) s = .next u ∧ (u.core n).cellar.frozen = true ∧ (u.core n).cellar.staging = [] ∧
        u.mem = s.mem ∧ (∃ q ∈ u.regions, q.rid = s.faultRoot t.task.rid ∧ q.phase = .ending) ∧
        ∃ c ∈ u.vault.taking, c.id = s.vault.nextId ∧ c.cause = cause ∧ c.trapv = val ∧ c.cls = 1 ∧ c.time = s.gtime) ∧
    (∀ h, headCapture s.vault.taking = some h → h.reached.contains p = true →
      ∃ u, exec (.vaultCopyDone p) s = .next u ∧ (cellarAt u p).frozen = false ∧ u.mem = s.mem ∧
        ∀ c ∈ u.vault.taking, c.id = h.id → p ∉ c.reached) ∧
    (regsOpen s = true → (boxOf s fn).busy = true → exec (.list fn voff) s = .next s ∧ exec (.fetch fn form 0 val voff) s = .next s ∧
      exec (.erase fn) s = .next s) ∧
    (regsOpen s = true → (boxOf s fn).busy = false → voff.toNat % 256 = 0 → ∃ (u : State) (l : List Capture),
      exec (.list fn voff) s = .next u ∧ u.mem = s.mem ∧ u.vault.kept = s.vault.kept ∧
      l.Perm (s.vault.kept.filter (mayFetch s fn)) ∧ u.outputs = s.outputs ++ [.reply fn 0x00 ((((l.map
        (fun c => leBytes c.id 8 ++ leBytes c.time 8)).flatten).drop voff.toNat).take 256)]) ∧
    (∀ c, regsOpen s = true → (boxOf s .pf).busy = false → s.vault.kept.find? (fun c => c.id = val.toNat) = some c → form.toNat < 2 →
      (form = 1 → c.hasFull = true) →
      ∃ u, exec (.fetch .pf form 0 val 0) s = .next u ∧ u.mem = s.mem ∧ u.vault.kept = s.vault.kept ∧
        u.outputs = s.outputs ++ [.reply .pf 0x00 ((viewBytes s c (form = 1) none).take 256)]) ∧
    (regsOpen s = true → (boxOf s .pf).busy = false →
      ((boxOf s .pf).voff.toNat % 256 = 0 →
        ∃ u, exec (.erase .pf) s = .next u ∧ u.vault.kept = [] ∧ u.outputs = s.outputs ++ [.reply .pf 0x00 []]) ∧
      ((boxOf s .pf).voff.toNat % 256 ≠ 0 →
        ∃ u, exec (.erase .pf) s = .next u ∧ u.vault.kept = s.vault.kept ∧ u.outputs = s.outputs ++ [.reply .pf 0x34 []])) ∧
    (∀ i, regsOpen s = true → (boxOf s (.vf i)).busy = false → ∃ u, exec (.erase (.vf i)) s = .next u ∧ u.vault.kept = s.vault.kept ∧
      u.outputs = s.outputs ++ [.reply (.vf i) 0x34 []])

/-! ### The platform and the host port (R66, R71 to R73, R169, R187 to R199, R221, R261, R266, R267, R289, R309 to R321, R465) -/

/-- R289, R315, R316: bring-up goes stage by stage; a power cycle or cold reset keeps the capsule store without its full form, a
warm reset keeps memory, the Cellars' rings and the whole store; PTP lock is noted, or its time runs out. Where the spec leaves a
point of this open, the model's choice or reading stands (log entries 1 and 43). -/
def Obligations.BringUpAndResetsComplete : Prop :=
  ∀ (s : State) (ok b : Bool),
    (∀ st, s.bar.stage = st → st < 4 → (ok = true ∨ st = 1) →
      exec (.bringupStageEnd ok) s = .next { s with bar := { s.bar with stage := st + 1 } }) ∧
    (∀ st, s.bar.stage = st → (st = 2 ∨ st = 3) →
      exec (.bringupStageEnd false) s = .next { s with bar := { s.bar with stage := 4, failst := BitVec.ofNat 4 st } }) ∧
    (4 ≤ s.bar.stage → s.bar.failst ≠ 0xF → exec (.bringupStageEnd ok) s = .next s) ∧
    (s.bar.failst = 0xF → s.bar.stage = 4 → ∃ u, exec (.bringupStageEnd ok) s = .next u ∧ u.bar.stage = 5 ∧
      ∀ i, i < 12 → ∃ l m, s.links[i]? = some l ∧ u.links[i]? = some m ∧ m.ctl = l.ctl ∧
        (l.training = false → l.stat.getLsbD 1 = false → m.training = l.ctl.getLsbD 7) ∧
        ((l.training = true ∨ l.stat.getLsbD 1 = true) → m = l)) ∧
    (s.bar.failst = 0xF → s.bar.stage = 5 → (∀ l ∈ s.links.toList, l.training = false) →
      ∃ u, exec (.bringupStageEnd ok) s = .next u ∧ u.bar.stage = (if s.bar.ptplock then 7 else 6) ∧
        (s.bar.ptplock = true → u.bar.ready = true)) ∧
    (∀ i, (i = Instr.powerOn ∨ i = Instr.coldReset ∨ i = Instr.powerLoss) → ∃ u, exec i s = .next u ∧ u.mem = [] ∧ u.cores = [] ∧
      u.regions = [] ∧ u.net = [] ∧ u.bar = Bar.reset ∧ u.vault.nextId = s.vault.nextId ∧
      u.vault.kept = s.vault.kept.map (fun c => { c with hasFull := false })) ∧
    (∃ u, exec .warmReset s = .next u ∧ u.mem = s.mem ∧ (∀ n k, u.thread n k = none) ∧
      (∀ n, (u.core n).cellar.ring = (s.core n).cellar.ring) ∧ (∀ d, (u.die d).cellar.ring = (s.die d).cellar.ring) ∧
      u.regions = [] ∧ u.net = [] ∧ u.bar.stage = 1 ∧
      u.vault.kept = s.vault.kept ∧ u.gtime = s.gtime ∧ u.manifests.length = s.manifests.length ∧
      ∀ m ∈ u.manifests, m.closed = true) ∧
    (∃ u, exec (.ptpLockChange b) s = .next u ∧ u.bar.ptplock = b ∧ u.bar.stage = s.bar.stage ∧ u.regions = s.regions) ∧
    (s.bar.stage = 6 → ∃ u, exec .ptpLockTimeout s = .next u ∧ u.bar.stage = 7 ∧ u.bar.ready = true ∧ u.mem = s.mem) ∧
    (s.bar.stage ≠ 6 → exec .ptpLockTimeout s = .next s)

/-- R66, R71 to R73, R169, R266, R267, R317, R318, R320, R321: links train, retrain and go down, power and ageing are published,
an error is injected and found by a scrub, and Ringmaster entries are armed and disarmed. Where the spec leaves a point of this
open, the model's choice or reading stands (log entries 25, 44, 45 and 46). -/
def Obligations.LinksPowerAndErrorsComplete : Prop :=
  ∀ (s : State) (kl : BitVec 4) (l : Link) (val : Word) (d : BitVec 2) (x : BitVec 8) (ctl : Byte),
    (linkAt s kl = some l →
      let link (i : Instr) (tr : Bool) (c : Byte) : Prop := ∃ u m, exec i s = .next u ∧ linkAt u kl = some m ∧
        m.training = tr ∧ m.stat.getLsbD 1 = false ∧ m.ctl = c ∧ SameThreads s u
      (regsOpen s = true →
        link (.retrain kl (val ||| 0x80)) true ((val.setWidth 8 ||| 0x80) &&& 0xC7) ∧
        (l.ctl.getLsbD 7 = false → link (.linkEnable kl val) true ((val.setWidth 8 ||| 0x80) &&& 0xC7)) ∧
        (l.ctl.getLsbD 7 = true → link (.linkDisable kl val) false (val.setWidth 8 &&& 0x47))) ∧
      (l.stat.getLsbD 1 = true → link (.linkErrorRetrain kl) true l.ctl) ∧
      (l.training = true → (∃ u, exec (.linkTrainTimeout kl) s = .next u ∧ linkAt u kl = some { l with training := false }) ∧
        ∀ t : Training, t.lanes ≠ 0 → t.rate ≠ 0 → l.ctl.getLsbD (t.rate.toNat - 1) = true →
          ∃ u m, exec (.linkTrainingDone kl t) s = .next u ∧ linkAt u kl = some m ∧ m.training = false ∧ m.ctl = l.ctl ∧
            m.stat.getLsbD 1 = true ∧ m.stat.extractLsb' 6 2 = t.lanes ∧ m.stat.extractLsb' 4 2 = t.rate ∧
            (m.stat.extractLsb' 12 20).toNat % 16 = 0)) ∧
    (∀ (watts : BitVec 16) (temp thr : Byte) (island : BitVec 6) (mhz : BitVec 12) (sw : Bool),
      ∃ u, exec (.powerControl watts temp thr island mhz sw) s = .next u ∧ u.mem = s.mem ∧ u.regions = s.regions ∧
        u.bar.pwrstat.extractLsb' 48 16 = watts ∧ u.bar.pwrstat.extractLsb' 40 8 = temp ∧
        (sw = false → islandOk island.toNat = true → timedIsland s island.toNat = false → 300 ≤ mhz.toNat → mhz.toNat ≤ 600 →
          mhz.toNat % 50 = 0 → (assocGet u.power.mhz island.toNat (600, 0)).1 = mhz.toNat) ∧
        (timedIsland s island.toNat = true → u.power.mhz = s.power.mhz) ∧
        (temp.toNat < 100 → watts.toNat ≤ min 1600 (max 400 s.bar.pwrlimit.toNat) → sw = false →
          u.power.thermal = false ∧ u.power.swallow = s.power.swallow)) ∧
    (∀ temp : Byte, ∃ u, exec (.thermalThrottle temp) s = .next u ∧ u.mem = s.mem ∧ u.regions = s.regions ∧
      u.bar.pwrstat.extractLsb' 40 8 = temp ∧ (105 < temp.toNat → u.power.thermal = true) ∧
      (temp.toNat < 100 → u.power.thermal = false ∧ u.power.swallow = s.power.swallow)) ∧
    (∀ (eol : BitVec 16) (conf : Byte) (worst : BitVec 6),
      (s.gtime < 24 * 3600 * 16 * 10 ^ 9 → exec (.ageingUpdate d eol conf worst) s = .next s) ∧
      (24 * 3600 * 16 * 10 ^ 9 ≤ s.gtime → ∃ u, exec (.ageingUpdate d eol conf worst) s = .next u ∧
        (u.die d).agemon.extractLsb' 32 16 = eol ∧ ((u.die d).agemon.extractLsb' 24 8).toNat = min conf.toNat 100 ∧
        (u.die d).agemon.extractLsb' 18 6 = worst ∧ u.mem = s.mem)) ∧
    (regsOpen s = true → ∃ u, exec (.errinj val) s = .next u ∧ u.mem = s.mem ∧ u.bar.injected = none ∧
      u.bar.errinj = (val &&& 0x7FF0FFFFFFFFFFFF) |||
        (if val.getLsbD 63 = true ∧ (val.extractLsb' 60 3).toNat < 5 ∧ val.extractLsb' 58 2 ≠ 3 then (1 : Word) <<< 63 else 0)) ∧
    (∀ (n : Nat) (q : BitVec 2) (row : BitVec 9),
      (cimInjected s n = none → exec (.cimScrub n q row) s = .next s) ∧
      (cimInjected s n = some (q.toNat, row.toNat) → s.domain ((s.core n).owner.getD 0) = none →
        ∃ u, exec (.cimScrub n q row) s = .next u ∧ u.bar.errinj.getLsbD 63 = false ∧
          (u.core n).mx = reloadRow s.mem n q.toNat row.toNat (s.core n).mx ∧ u.mem = s.mem)) ∧
    (regsOpen s = true →
      let y := rmGet s d x
      let z : RmEntry := { y with stat := 0, ctl := ctl &&& 0x7F, n := 0 }
      (∃ u, exec (.ringmasterDisarm d x ctl) s = .next u ∧ rmGet u d x = { y with ctl := ctl &&& 0x7F } ∧ u.mem = s.mem) ∧
      (y.ctl.getLsbD 7 = true → exec (.ringmasterArm d x ctl) s = .next s) ∧
      (y.ctl.getLsbD 7 = false → armFields y ctl = false →
        ∃ u, exec (.ringmasterArm d x ctl) s = .next u ∧ rmGet u d x = { z with stat := 1 }) ∧
      (∀ r t, y.ctl.getLsbD 7 = false → armFields y ctl = true → armedRegion s d y.trec s.regions = some (.ok (r, t)) →
        armRegionOk d y r t = true → s.gtime ≤ y.start.toNat → s.bar.errinj.getLsbD 63 = false →
        ∃ u, exec (.ringmasterArm d x ctl) s = .next u ∧ rmGet u d x = { z with ctl := ctl ||| 0x80, rid := r.rid }))

/-- R20, R187 to R198, R221, R254, R261, R309 to R313, R316, R319, R465: the host's register writes, memory accesses, AtomicOps,
translations and page responses complete, each with its effect or none. Where the spec leaves a point of this open, the model's
choice or reading stands (log entries 12, 25, 47, 48 and 49). -/
def Obligations.HostAccessesComplete : Prop :=
  ∀ (s : State) (fn : Fn) (d : BitVec 2) (val : Word) (off size : Nat),
    (regsOpen s = true →
      ((∃ r ∈ s.regions, r.tcount ≠ 0) → exec (.ttbaseWrite d val) s = .next s) ∧
      ((∀ r ∈ s.regions, r.tcount = 0) → ∃ u, exec (.ttbaseWrite d val) s = .next u ∧
        (u.die d).ttbase = val &&& 0x8000003FFFFC0000 ∧ u.mem = s.mem ∧ u.cores = s.cores) ∧
      (∀ i : BitVec 6, let old : Word := s.bar.tenbind[i.toNat]
        let w := val &&& 0x800FFFFF0000FFFF
        (old.getLsbD 63 = true → (∃ r ∈ s.regions, r.tenant = old.extractLsb' 0 16) → exec (.tenbindWrite i val) s = .next s) ∧
        let twice : Prop := ∃ j, j ≠ i.toNat ∧ ∃ e : Word, s.bar.tenbind[j]? = some e ∧ e.getLsbD 63 = true ∧
          e.extractLsb' 0 16 = w.extractLsb' 0 16
        ((old.getLsbD 63 = false ∨ ∀ r ∈ s.regions, r.tenant ≠ old.extractLsb' 0 16) →
          ∃ u, exec (.tenbindWrite i val) s = .next u ∧ (∀ j, j ≠ i.toNat → u.bar.tenbind[j]? = s.bar.tenbind[j]?) ∧
            (twice → u.bar.tenbind[i.toNat]? = some (w &&& ~~~((1 : Word) <<< 63))) ∧
            (¬twice → u.bar.tenbind[i.toNat]? = some w))) ∧
      (∀ i : BitVec 12, ∃ u, exec (.peerTableWrite i val) s = .next u ∧ u.mem = s.mem ∧
        (val.getLsbD 62 = false → assocGet u.bar.peers i.toNat 0 = val &&& 0xCFFF000000003FFF) ∧
        (val.getLsbD 62 = true → val.extractLsb' 0 14 ≠ Config.straps → (assocGet u.bar.peers i.toNat 0).getLsbD 63 = false)) ∧
      (∃ u, exec (.registerWrite fn 0x1010 8 val) s = .next u ∧ (u.fnRegs fn).hvec = val &&& 0x0000FFFFFFFFFFE0 ∧
        u.mem = s.mem ∧ ∀ g, g ≠ fn → u.fnRegs g = s.fnRegs g) ∧
      (off % size ≠ 0 → exec (.registerWrite fn off size val) s = .next s) ∧
      (off < 0x10000 → size ≠ 8 → exec (.registerWrite fn off size val) s = .next s) ∧
      (size ≤ 8 → off + size ≤ 0x3FC0000000 →
        (Good s → s.bar.errinj.getLsbD 63 = false → ∃ u, exec (.hostBar2Access true off size val) s = .next u ∧
          Memory.readLE u.mem (2 ^ 40 + off) size = val.toNat % 2 ^ (8 * size) ∧
          ∀ a, (a < 2 ^ 40 + off ∨ 2 ^ 40 + off + size ≤ a) → Memory.read u.mem a = Memory.read s.mem a) ∧
        (s.bar.errinj.getLsbD 63 = false → exec (.hostBar2Access false off size val) s =
          .next (s.emit (.read (BitVec.ofNat 64 (Memory.readLE s.mem (2 ^ 40 + off) size)))))) ∧
      (∀ (op : Aop) (wide : Bool) (swap : Word), off < 0x3FC0000000 →
        (op = .add ∨ op = .xchg ∨ op = .cas → s.bar.errinj.getLsbD 63 = false →
          ∃ u, exec (.hostAtomicop off op wide val swap) s = .next u ∧
            u.outputs = s.outputs ++ [.read (BitVec.ofNat 64 (Memory.readLE s.mem (2 ^ 40 + off) (if wide then 8 else 4)))] ∧
            u.mem = writeMasked s.mem (atomAct s op wide (2 ^ 40 + off) val swap).2 ∧ SameThreads s u) ∧
        (op ≠ .add → op ≠ .xchg → op ≠ .cas → exec (.hostAtomicop off op wide val swap) s = .next s))) ∧
    (regsOpen s = false → exec (.ttbaseWrite d val) s = .next s ∧ exec (.registerWrite fn off size val) s = .next s) ∧
    (∀ (n : Nat) (x : Xlate),
      ((∀ w ∈ (s.die d).walks, covers x w.1 w.2 = false) → exec (.translationCompletion d n x) s = .next s) ∧
      ((∃ w ∈ (s.die d).walks, covers x w.1 w.2 = true) →
        ∃ f : State, exec (.translationCompletion d n x) s = .next (retryPoison (resumeRestores (retryStarts (retryRecords f d)))) ∧
          x ∈ f.known ∧ (∃ e ∈ (f.die d).tlb, e.t = x) ∧ (∀ w ∈ (f.die d).walks, covers x w.1 w.2 = false) ∧
          (dieOf n = d.toNat → ∃ e ∈ (f.core n).cache.tlb, e.t = x) ∧ f.mem = s.mem ∧ f.regions = s.regions)) ∧
    (∀ (pasid : BitVec 20) (va lg : Nat), ∃ u, exec (.atsInvalidate pasid va lg) s = .next u ∧ u.mem = s.mem ∧
      u.outputs = s.outputs ++ [.invalidated pasid va] ∧
      (∀ x ∈ u.known, covers x pasid va = false) ∧ (∀ i, ∀ e ∈ (u.die i).tlb, covers e.t pasid va = false) ∧
      ∀ n, ∀ e ∈ (u.core n).cache.tlb, covers e.t pasid va = false) ∧
    (∀ (req : Nat) (ok : Bool),
      ((s.die d).reqs.find? (fun r => r.sent && r.id = req) = none → exec (.pageResponse d req ok) s = .next s) ∧
      ((∃ r ∈ (s.die d).reqs, r.sent = true ∧ r.id = req) → (∀ n, ∀ h ∈ openHeads (s.core n), h.asked ≠ some req) →
        (∀ e ∈ s.bar.fns, e.2.startReq ≠ some req) → s.toPoison = [] → (∀ r ∈ s.regions, r.phase ≠ .restoring ∧ r.closing = none) →
        (∀ e ∈ (s.die d).disp, e.waiting = some req → e.saved.isSome = true) →
        ∃ u, exec (.pageResponse d req ok) s = .next u ∧ u.mem = s.mem ∧ (∀ r ∈ (u.die d).reqs, r.id ≠ req) ∧
          (∀ e ∈ (s.die d).disp, e.waiting = some req → ∃ g ∈ (u.die d).disp, g.id = e.id ∧ g.waiting = none ∧
            g.ready = some s.sched.clock) ∧
          ∀ n k t, s.thread n k = some t → t.life.faulted = some req → ∃ t', u.thread n k = some t' ∧ t'.regs = t.regs ∧
            t'.life.faulted = none ∧ t'.life.saving = none ∧
            t'.reports = if ok then t.reports else t.reports ++ [.xlate (BitVec.ofNat 64 (t.life.saving.getD 0))])) ∧
    (∀ (n k id : Nat) (t : Thread) (e : QEntry) (op : Aop) (wide : Bool) (key : Nat) (x y : Word) (miss : Option Nat) (va : Word),
      readyEntry s n id = some (t, e) → e.kind = .atomM op wide key x y miss va → isHost key = true →
      ∃ u, exec (.atomicopFailed n k id) s = .next u ∧ u.mem = s.mem ∧ u.bar.hostcap = s.bar.hostcap ||| 2 ∧
        ∀ m, miss = some m → ∀ z ∈ (u.core n).net.misses, z.id = m → z.data = some 0)

/-! ### Steps, decoding, invariants and reset -/

/-- R47, R94 to R99, R251: a step runs the decoded instruction. When slot k's turn comes in core n and its fetch gives a bundle
whose one syllable besides NOPs is `i`, which passes its checks, the step is `exec` of `i` after the bundle's start, and the PC
becomes the bundle address that `i` leaves, whose first bundle is fetched no sooner than R178 lets a taken branch. A bundle that
does not decode traps ILLEGAL at its first offending syllable. A scheduled step of the device is `exec` of its instruction, which
always answers a next state. Where the spec leaves a point of this open, the model's choice or reading stands (log entry 4). -/
def Obligations.StepRunsTheDecodedInstruction : Prop :=
  (∀ (s s1 : State) (n : Nat) (r : List Nat) (t0 t : Thread) (l : List Byte) (b : Bundle) (j : Nat) (i : Instr) (w : Word),
    s.sched.todoCores = n :: r → n < 3072 →
    let s0 : State := { s with sched := { s.sched with todoCores := r } }
    let k := s.coreClock n % 8
    s0.thread n k = some t0 → s0.frozenFor t0 = false → t0.life.resuming = false →
    exec (.resultLands n k) s0 = .next s1 → s1.thread n k = some t → Ready s1 n t → s1.bar.errinj.getLsbD 63 = false →
    let s2 := atCursor s1 n k (t.ctl.pc + 32)
    fetchOf s2 n t = .bytes l → decodeBundle l = .ok b →
    let s3 : State := { s2 with cur := { s2.cur with lit := b.lit, hwait := b.hwait, strict := b.strict } }
    OneSyllable s3 n k t b j i w →
    let began (u : State) : State := beginBundle u n k b
    ∃ v, exec i (if readsCtl i then s3 else began s3) = .next v ∧ (v.cur.issue = .none →
      let w := if readsCtl i then began v else v
      step s = .next (noteCode s1 { summonMates (moveOn w n k t) n k t with cur := Cursor.idle } n k))) ∧
  (∀ (s s1 : State) (n : Nat) (r : List Nat) (t0 t : Thread) (l : List Byte) (j : Nat) (v : Word),
    s.sched.todoCores = n :: r → n < 3072 →
    let s0 : State := { s with sched := { s.sched with todoCores := r } }
    let k := s.coreClock n % 8
    s0.thread n k = some t0 → s0.frozenFor t0 = false → t0.life.resuming = false →
    exec (.resultLands n k) s0 = .next s1 → s1.thread n k = some t → Ready s1 n t → s1.bar.errinj.getLsbD 63 = false →
    let s2 := atCursor s1 n k (t.ctl.pc + 32)
    fetchOf s2 n t = .bytes l → decodeBundle l = .error (j, v) →
    step s = .next (noteCode s1 { trapCur s2 cILLEGAL j v with cur := Cursor.idle } n k)) ∧
  (∀ (s : State) (e : Event) (i : Instr), s.sched.todoCores = [] → eventOf i = some e →
    (∀ l, takeDue s.sched.clock s.sched.agenda = some (e, l) →
      step s = exec i { s with sched := { s.sched with agenda := l } }) ∧
    (∀ l, takeDue s.sched.clock s.sched.agenda = none → s.sched.todoEv = e :: l →
      step s = exec i { s with sched := { s.sched with todoEv := l } })) ∧
  (∀ (s : State) (e : Event) (i : Instr), eventOf i = some e → ∃ u, exec i s = .next u) ∧
  (∀ (s : State) (n : Nat) (r : List Nat), s.sched.todoCores = n :: r → 3072 ≤ n → step s = .fault (.noSuchCore n))

/-- R101 to R113: every well-formed syllable encodes to a 32-bit word that decodes to it at its position, and every word that
decodes is the encoding of what it decodes to. -/
def Obligations.DecodeAndEncodeAgree : Prop :=
  (∀ i : Instr, i.wellFormed = true → ∀ p, posOf i = some p →
    ∃ w, encode i = some (p, w) ∧ w < 2 ^ 32 ∧ decode p w = .ok i) ∧
  (∀ p w i, w < 2 ^ 32 → decode p w = .ok i → i.wellFormed = true ∧ encode i = some (p, w))

/-- R101, R105 to R112: words written out from the encoding of their instruction decode to it. -/
def Obligations.WrittenWordsDecode : Prop :=
  decode .x (8 * 2 ^ 26 + 5 * 2 ^ 21 + 0x71 * 16) = .ok (.addi .x 5 0 0x71 ⟨0, false⟩) ∧
  decode .c (7 * 2 ^ 26 + 4 * 2 ^ 21 + 9 * 2 ^ 16) = .ok (.waitt 4 9 ⟨0, false⟩) ∧
  decode .c (25 * 2 ^ 26) = .ok (.gbar ⟨0, false⟩) ∧
  decode .c (16 * 2 ^ 26 + 5 * 2 ^ 21 + 0x20 * 16) = .ok (.rdc 5 0x20 ⟨0, false⟩) ∧
  decode .l (27 * 2 ^ 26 + 3 * 2 ^ 21 + 10 * 2 ^ 16) = .ok (.tld 3 10 0 ⟨0, false⟩) ∧
  decode .x (3 * 2 ^ 26 + 10 * 2 ^ 21 + 12 * 2 ^ 16 + 0x0B * 16) = .ok (.fsqrt .x 10 12 ⟨0, false⟩) ∧
  decode .e (1 * 2 ^ 26 + 15 * 2 ^ 21 + 6 * 2 ^ 16) = .ok (.mxldb 15 6 ⟨0, 0, 0, 0⟩) ∧
  decode .e (6 * 2 ^ 26 + 7 * 2 ^ 16 + 1 * 2 ^ 9 + 1 * 2 ^ 6) = .ok (.cpy 7 ⟨1, 1, 0, 0⟩) ∧
  decode .c (13 * 2 ^ 26 + 7 * 2 ^ 21 + 6 * 2 ^ 16 + 5 * 16) = .ok (.plog .not 7 6 0 ⟨0, false⟩) ∧
  decode .l 0x28A10000 = .ok (.stw .x 5 1 0 0 ⟨0, false⟩) ∧ decode .l 0x20820030 = .ok (.stb .x 4 2 0 3 ⟨0, false⟩) ∧
  decode .l 0x24E30FF0 = .ok (.sth .y 7 3 0 (-1) ⟨0, false⟩) ∧ decode .l 0x2C821820 = .ok (.std .y 4 2 1 2 ⟨0, false⟩) ∧
  decode .x 0 = .ok (.nop .x) ∧ decode .x 1 = .error .opZero ∧ decode .e (63 * 2 ^ 26) = .error .reservedOp

/-- R5, R6, R205: every step from a good state leaves a good state: no operation of the machine breaks the memory's canonical
form. Where the spec leaves a point of this open, the model's choice or reading stands (log entry 1). -/
def Obligations.StepKeepsMemoryCanonical : Prop :=
  ∀ s s' : State, Good s → step s = .next s' → Good s'

/-- R315, R316, R320: the package after reset stands in stage 1 with no failed stage, FATAL, PTPLOCK and READY clear and LIMIT
0x0640; no region is live and no task runs; memory, of which the model lists nothing (its choice, log entry 1), is good. -/
def Obligations.ResetState : Prop :=
  Good State.reset ∧ State.reset.bar.stage = 1 ∧ State.reset.bar.failst = 0xF ∧ State.reset.bar.fatal = false ∧
    State.reset.bar.ptplock = false ∧ State.reset.bar.ready = false ∧ State.reset.bar.pwrlimit = 0x0640 ∧
    State.reset.regions = [] ∧ (∀ n k, State.reset.thread n k = none) ∧ (∀ a, Memory.read State.reset.mem a = 0) ∧
    (∀ n, (State.reset.core n).eng.mxcfg = 0x220 ∧ (State.reset.core n).rcd.ctl = 0x000007FB88008000) ∧
    ∀ d, (State.reset.die d).agemon = 0x0000FFFF00000000
end

