-- ==== Sys2Proof/Laws/State.lean ====
section
/-! SUPPORT. What each update of the state leaves alone: one lemma per field per update. -/

namespace Sys2Proof.Machine


/-! ### setCore: only the cores change -/

@[simp] theorem State.setCore_cur (s : State) (n : Nat) (c : Core) : (s.setCore n c).cur = s.cur := rfl
@[simp] theorem State.setCore_sched (s : State) (n : Nat) (c : Core) : (s.setCore n c).sched = s.sched := rfl
@[simp] theorem State.setCore_mem (s : State) (n : Nat) (c : Core) : (s.setCore n c).mem = s.mem := rfl
@[simp] theorem State.setCore_poison (s : State) (n : Nat) (c : Core) : (s.setCore n c).poison = s.poison := rfl
@[simp] theorem State.setCore_owners (s : State) (n : Nat) (c : Core) : (s.setCore n c).owners = s.owners := rfl
@[simp] theorem State.setCore_dies (s : State) (n : Nat) (c : Core) : (s.setCore n c).dies = s.dies := rfl
@[simp] theorem State.setCore_regions (s : State) (n : Nat) (c : Core) : (s.setCore n c).regions = s.regions := rfl
@[simp] theorem State.setCore_domains (s : State) (n : Nat) (c : Core) : (s.setCore n c).domains = s.domains := rfl
@[simp] theorem State.setCore_net (s : State) (n : Nat) (c : Core) : (s.setCore n c).net = s.net := rfl
@[simp] theorem State.setCore_inbound (s : State) (n : Nat) (c : Core) : (s.setCore n c).inbound = s.inbound := rfl
@[simp] theorem State.setCore_answers (s : State) (n : Nat) (c : Core) : (s.setCore n c).answers = s.answers := rfl
@[simp] theorem State.setCore_routes (s : State) (n : Nat) (c : Core) : (s.setCore n c).routes = s.routes := rfl
@[simp] theorem State.setCore_snet (s : State) (n : Nat) (c : Core) : (s.setCore n c).snet = s.snet := rfl
@[simp] theorem State.setCore_bar (s : State) (n : Nat) (c : Core) : (s.setCore n c).bar = s.bar := rfl
@[simp] theorem State.setCore_links (s : State) (n : Nat) (c : Core) : (s.setCore n c).links = s.links := rfl
@[simp] theorem State.setCore_power (s : State) (n : Nat) (c : Core) : (s.setCore n c).power = s.power := rfl
@[simp] theorem State.setCore_vault (s : State) (n : Nat) (c : Core) : (s.setCore n c).vault = s.vault := rfl
@[simp] theorem State.setCore_manifests (s : State) (n : Nat) (c : Core) : (s.setCore n c).manifests = s.manifests := rfl
@[simp] theorem State.setCore_nextMan (s : State) (n : Nat) (c : Core) : (s.setCore n c).nextMan = s.nextMan := rfl
@[simp] theorem State.setCore_deferred (s : State) (n : Nat) (c : Core) : (s.setCore n c).deferred = s.deferred := rfl
@[simp] theorem State.setCore_toPoison (s : State) (n : Nat) (c : Core) : (s.setCore n c).toPoison = s.toPoison := rfl
@[simp] theorem State.setCore_known (s : State) (n : Nat) (c : Core) : (s.setCore n c).known = s.known := rfl
@[simp] theorem State.setCore_outputs (s : State) (n : Nat) (c : Core) : (s.setCore n c).outputs = s.outputs := rfl
@[simp] theorem State.setCore_absent (s : State) (n : Nat) (c : Core) : (s.setCore n c).absent = s.absent := rfl

/-! ### modCore: only the cores change -/

@[simp] theorem State.modCore_cur (s : State) (n : Nat) (f : Core → Core) : (s.modCore n f).cur = s.cur := rfl
@[simp] theorem State.modCore_sched (s : State) (n : Nat) (f : Core → Core) : (s.modCore n f).sched = s.sched := rfl
@[simp] theorem State.modCore_mem (s : State) (n : Nat) (f : Core → Core) : (s.modCore n f).mem = s.mem := rfl
@[simp] theorem State.modCore_poison (s : State) (n : Nat) (f : Core → Core) : (s.modCore n f).poison = s.poison := rfl
@[simp] theorem State.modCore_owners (s : State) (n : Nat) (f : Core → Core) : (s.modCore n f).owners = s.owners := rfl
@[simp] theorem State.modCore_dies (s : State) (n : Nat) (f : Core → Core) : (s.modCore n f).dies = s.dies := rfl
@[simp] theorem State.modCore_regions (s : State) (n : Nat) (f : Core → Core) : (s.modCore n f).regions = s.regions := rfl
@[simp] theorem State.modCore_domains (s : State) (n : Nat) (f : Core → Core) : (s.modCore n f).domains = s.domains := rfl
@[simp] theorem State.modCore_net (s : State) (n : Nat) (f : Core → Core) : (s.modCore n f).net = s.net := rfl
@[simp] theorem State.modCore_inbound (s : State) (n : Nat) (f : Core → Core) : (s.modCore n f).inbound = s.inbound := rfl
@[simp] theorem State.modCore_answers (s : State) (n : Nat) (f : Core → Core) : (s.modCore n f).answers = s.answers := rfl
@[simp] theorem State.modCore_routes (s : State) (n : Nat) (f : Core → Core) : (s.modCore n f).routes = s.routes := rfl
@[simp] theorem State.modCore_snet (s : State) (n : Nat) (f : Core → Core) : (s.modCore n f).snet = s.snet := rfl
@[simp] theorem State.modCore_bar (s : State) (n : Nat) (f : Core → Core) : (s.modCore n f).bar = s.bar := rfl
@[simp] theorem State.modCore_links (s : State) (n : Nat) (f : Core → Core) : (s.modCore n f).links = s.links := rfl
@[simp] theorem State.modCore_power (s : State) (n : Nat) (f : Core → Core) : (s.modCore n f).power = s.power := rfl
@[simp] theorem State.modCore_vault (s : State) (n : Nat) (f : Core → Core) : (s.modCore n f).vault = s.vault := rfl
@[simp] theorem State.modCore_manifests (s : State) (n : Nat) (f : Core → Core) : (s.modCore n f).manifests = s.manifests := rfl
@[simp] theorem State.modCore_nextMan (s : State) (n : Nat) (f : Core → Core) : (s.modCore n f).nextMan = s.nextMan := rfl
@[simp] theorem State.modCore_deferred (s : State) (n : Nat) (f : Core → Core) : (s.modCore n f).deferred = s.deferred := rfl
@[simp] theorem State.modCore_toPoison (s : State) (n : Nat) (f : Core → Core) : (s.modCore n f).toPoison = s.toPoison := rfl
@[simp] theorem State.modCore_known (s : State) (n : Nat) (f : Core → Core) : (s.modCore n f).known = s.known := rfl
@[simp] theorem State.modCore_outputs (s : State) (n : Nat) (f : Core → Core) : (s.modCore n f).outputs = s.outputs := rfl
@[simp] theorem State.modCore_absent (s : State) (n : Nat) (f : Core → Core) : (s.modCore n f).absent = s.absent := rfl

/-! ### setThread: only the cores change -/

@[simp] theorem State.setThread_cur (s : State) (n k : Nat) (t : Option Thread) : (s.setThread n k t).cur = s.cur := rfl
@[simp] theorem State.setThread_sched (s : State) (n k : Nat) (t : Option Thread) : (s.setThread n k t).sched = s.sched := rfl
@[simp] theorem State.setThread_mem (s : State) (n k : Nat) (t : Option Thread) : (s.setThread n k t).mem = s.mem := rfl
@[simp] theorem State.setThread_poison (s : State) (n k : Nat) (t : Option Thread) : (s.setThread n k t).poison = s.poison := rfl
@[simp] theorem State.setThread_owners (s : State) (n k : Nat) (t : Option Thread) : (s.setThread n k t).owners = s.owners := rfl
@[simp] theorem State.setThread_dies (s : State) (n k : Nat) (t : Option Thread) : (s.setThread n k t).dies = s.dies := rfl
@[simp] theorem State.setThread_regions (s : State) (n k : Nat) (t : Option Thread) : (s.setThread n k t).regions = s.regions := rfl
@[simp] theorem State.setThread_domains (s : State) (n k : Nat) (t : Option Thread) : (s.setThread n k t).domains = s.domains := rfl
@[simp] theorem State.setThread_net (s : State) (n k : Nat) (t : Option Thread) : (s.setThread n k t).net = s.net := rfl
@[simp] theorem State.setThread_inbound (s : State) (n k : Nat) (t : Option Thread) : (s.setThread n k t).inbound = s.inbound := rfl
@[simp] theorem State.setThread_answers (s : State) (n k : Nat) (t : Option Thread) : (s.setThread n k t).answers = s.answers := rfl
@[simp] theorem State.setThread_routes (s : State) (n k : Nat) (t : Option Thread) : (s.setThread n k t).routes = s.routes := rfl
@[simp] theorem State.setThread_snet (s : State) (n k : Nat) (t : Option Thread) : (s.setThread n k t).snet = s.snet := rfl
@[simp] theorem State.setThread_bar (s : State) (n k : Nat) (t : Option Thread) : (s.setThread n k t).bar = s.bar := rfl
@[simp] theorem State.setThread_links (s : State) (n k : Nat) (t : Option Thread) : (s.setThread n k t).links = s.links := rfl
@[simp] theorem State.setThread_power (s : State) (n k : Nat) (t : Option Thread) : (s.setThread n k t).power = s.power := rfl
@[simp] theorem State.setThread_vault (s : State) (n k : Nat) (t : Option Thread) : (s.setThread n k t).vault = s.vault := rfl
@[simp] theorem State.setThread_manifests (s : State) (n k : Nat) (t : Option Thread) : (s.setThread n k t).manifests = s.manifests := rfl
@[simp] theorem State.setThread_nextMan (s : State) (n k : Nat) (t : Option Thread) : (s.setThread n k t).nextMan = s.nextMan := rfl
@[simp] theorem State.setThread_deferred (s : State) (n k : Nat) (t : Option Thread) : (s.setThread n k t).deferred = s.deferred := rfl
@[simp] theorem State.setThread_toPoison (s : State) (n k : Nat) (t : Option Thread) : (s.setThread n k t).toPoison = s.toPoison := rfl
@[simp] theorem State.setThread_known (s : State) (n k : Nat) (t : Option Thread) : (s.setThread n k t).known = s.known := rfl
@[simp] theorem State.setThread_outputs (s : State) (n k : Nat) (t : Option Thread) : (s.setThread n k t).outputs = s.outputs := rfl
@[simp] theorem State.setThread_absent (s : State) (n k : Nat) (t : Option Thread) : (s.setThread n k t).absent = s.absent := rfl

/-! ### modEng: only the cores change -/

@[simp] theorem State.modEng_cur (s : State) (n : Nat) (f : Engine → Engine) : (s.modEng n f).cur = s.cur := rfl
@[simp] theorem State.modEng_sched (s : State) (n : Nat) (f : Engine → Engine) : (s.modEng n f).sched = s.sched := rfl
@[simp] theorem State.modEng_mem (s : State) (n : Nat) (f : Engine → Engine) : (s.modEng n f).mem = s.mem := rfl
@[simp] theorem State.modEng_poison (s : State) (n : Nat) (f : Engine → Engine) : (s.modEng n f).poison = s.poison := rfl
@[simp] theorem State.modEng_owners (s : State) (n : Nat) (f : Engine → Engine) : (s.modEng n f).owners = s.owners := rfl
@[simp] theorem State.modEng_dies (s : State) (n : Nat) (f : Engine → Engine) : (s.modEng n f).dies = s.dies := rfl
@[simp] theorem State.modEng_regions (s : State) (n : Nat) (f : Engine → Engine) : (s.modEng n f).regions = s.regions := rfl
@[simp] theorem State.modEng_domains (s : State) (n : Nat) (f : Engine → Engine) : (s.modEng n f).domains = s.domains := rfl
@[simp] theorem State.modEng_net (s : State) (n : Nat) (f : Engine → Engine) : (s.modEng n f).net = s.net := rfl
@[simp] theorem State.modEng_inbound (s : State) (n : Nat) (f : Engine → Engine) : (s.modEng n f).inbound = s.inbound := rfl
@[simp] theorem State.modEng_answers (s : State) (n : Nat) (f : Engine → Engine) : (s.modEng n f).answers = s.answers := rfl
@[simp] theorem State.modEng_routes (s : State) (n : Nat) (f : Engine → Engine) : (s.modEng n f).routes = s.routes := rfl
@[simp] theorem State.modEng_snet (s : State) (n : Nat) (f : Engine → Engine) : (s.modEng n f).snet = s.snet := rfl
@[simp] theorem State.modEng_bar (s : State) (n : Nat) (f : Engine → Engine) : (s.modEng n f).bar = s.bar := rfl
@[simp] theorem State.modEng_links (s : State) (n : Nat) (f : Engine → Engine) : (s.modEng n f).links = s.links := rfl
@[simp] theorem State.modEng_power (s : State) (n : Nat) (f : Engine → Engine) : (s.modEng n f).power = s.power := rfl
@[simp] theorem State.modEng_vault (s : State) (n : Nat) (f : Engine → Engine) : (s.modEng n f).vault = s.vault := rfl
@[simp] theorem State.modEng_manifests (s : State) (n : Nat) (f : Engine → Engine) : (s.modEng n f).manifests = s.manifests := rfl
@[simp] theorem State.modEng_nextMan (s : State) (n : Nat) (f : Engine → Engine) : (s.modEng n f).nextMan = s.nextMan := rfl
@[simp] theorem State.modEng_deferred (s : State) (n : Nat) (f : Engine → Engine) : (s.modEng n f).deferred = s.deferred := rfl
@[simp] theorem State.modEng_toPoison (s : State) (n : Nat) (f : Engine → Engine) : (s.modEng n f).toPoison = s.toPoison := rfl
@[simp] theorem State.modEng_known (s : State) (n : Nat) (f : Engine → Engine) : (s.modEng n f).known = s.known := rfl
@[simp] theorem State.modEng_outputs (s : State) (n : Nat) (f : Engine → Engine) : (s.modEng n f).outputs = s.outputs := rfl
@[simp] theorem State.modEng_absent (s : State) (n : Nat) (f : Engine → Engine) : (s.modEng n f).absent = s.absent := rfl

/-! ### modNet: only the cores change -/

@[simp] theorem State.modNet_cur (s : State) (n : Nat) (f : CoreNet → CoreNet) : (s.modNet n f).cur = s.cur := rfl
@[simp] theorem State.modNet_sched (s : State) (n : Nat) (f : CoreNet → CoreNet) : (s.modNet n f).sched = s.sched := rfl
@[simp] theorem State.modNet_mem (s : State) (n : Nat) (f : CoreNet → CoreNet) : (s.modNet n f).mem = s.mem := rfl
@[simp] theorem State.modNet_poison (s : State) (n : Nat) (f : CoreNet → CoreNet) : (s.modNet n f).poison = s.poison := rfl
@[simp] theorem State.modNet_owners (s : State) (n : Nat) (f : CoreNet → CoreNet) : (s.modNet n f).owners = s.owners := rfl
@[simp] theorem State.modNet_dies (s : State) (n : Nat) (f : CoreNet → CoreNet) : (s.modNet n f).dies = s.dies := rfl
@[simp] theorem State.modNet_regions (s : State) (n : Nat) (f : CoreNet → CoreNet) : (s.modNet n f).regions = s.regions := rfl
@[simp] theorem State.modNet_domains (s : State) (n : Nat) (f : CoreNet → CoreNet) : (s.modNet n f).domains = s.domains := rfl
@[simp] theorem State.modNet_net (s : State) (n : Nat) (f : CoreNet → CoreNet) : (s.modNet n f).net = s.net := rfl
@[simp] theorem State.modNet_inbound (s : State) (n : Nat) (f : CoreNet → CoreNet) : (s.modNet n f).inbound = s.inbound := rfl
@[simp] theorem State.modNet_answers (s : State) (n : Nat) (f : CoreNet → CoreNet) : (s.modNet n f).answers = s.answers := rfl
@[simp] theorem State.modNet_routes (s : State) (n : Nat) (f : CoreNet → CoreNet) : (s.modNet n f).routes = s.routes := rfl
@[simp] theorem State.modNet_snet (s : State) (n : Nat) (f : CoreNet → CoreNet) : (s.modNet n f).snet = s.snet := rfl
@[simp] theorem State.modNet_bar (s : State) (n : Nat) (f : CoreNet → CoreNet) : (s.modNet n f).bar = s.bar := rfl
@[simp] theorem State.modNet_links (s : State) (n : Nat) (f : CoreNet → CoreNet) : (s.modNet n f).links = s.links := rfl
@[simp] theorem State.modNet_power (s : State) (n : Nat) (f : CoreNet → CoreNet) : (s.modNet n f).power = s.power := rfl
@[simp] theorem State.modNet_vault (s : State) (n : Nat) (f : CoreNet → CoreNet) : (s.modNet n f).vault = s.vault := rfl
@[simp] theorem State.modNet_manifests (s : State) (n : Nat) (f : CoreNet → CoreNet) : (s.modNet n f).manifests = s.manifests := rfl
@[simp] theorem State.modNet_nextMan (s : State) (n : Nat) (f : CoreNet → CoreNet) : (s.modNet n f).nextMan = s.nextMan := rfl
@[simp] theorem State.modNet_deferred (s : State) (n : Nat) (f : CoreNet → CoreNet) : (s.modNet n f).deferred = s.deferred := rfl
@[simp] theorem State.modNet_toPoison (s : State) (n : Nat) (f : CoreNet → CoreNet) : (s.modNet n f).toPoison = s.toPoison := rfl
@[simp] theorem State.modNet_known (s : State) (n : Nat) (f : CoreNet → CoreNet) : (s.modNet n f).known = s.known := rfl
@[simp] theorem State.modNet_outputs (s : State) (n : Nat) (f : CoreNet → CoreNet) : (s.modNet n f).outputs = s.outputs := rfl
@[simp] theorem State.modNet_absent (s : State) (n : Nat) (f : CoreNet → CoreNet) : (s.modNet n f).absent = s.absent := rfl

/-! ### modMx: only the cores change -/

@[simp] theorem State.modMx_cur (s : State) (n : Nat) (f : Matrix → Matrix) : (s.modMx n f).cur = s.cur := rfl
@[simp] theorem State.modMx_sched (s : State) (n : Nat) (f : Matrix → Matrix) : (s.modMx n f).sched = s.sched := rfl
@[simp] theorem State.modMx_mem (s : State) (n : Nat) (f : Matrix → Matrix) : (s.modMx n f).mem = s.mem := rfl
@[simp] theorem State.modMx_poison (s : State) (n : Nat) (f : Matrix → Matrix) : (s.modMx n f).poison = s.poison := rfl
@[simp] theorem State.modMx_owners (s : State) (n : Nat) (f : Matrix → Matrix) : (s.modMx n f).owners = s.owners := rfl
@[simp] theorem State.modMx_dies (s : State) (n : Nat) (f : Matrix → Matrix) : (s.modMx n f).dies = s.dies := rfl
@[simp] theorem State.modMx_regions (s : State) (n : Nat) (f : Matrix → Matrix) : (s.modMx n f).regions = s.regions := rfl
@[simp] theorem State.modMx_domains (s : State) (n : Nat) (f : Matrix → Matrix) : (s.modMx n f).domains = s.domains := rfl
@[simp] theorem State.modMx_net (s : State) (n : Nat) (f : Matrix → Matrix) : (s.modMx n f).net = s.net := rfl
@[simp] theorem State.modMx_inbound (s : State) (n : Nat) (f : Matrix → Matrix) : (s.modMx n f).inbound = s.inbound := rfl
@[simp] theorem State.modMx_answers (s : State) (n : Nat) (f : Matrix → Matrix) : (s.modMx n f).answers = s.answers := rfl
@[simp] theorem State.modMx_routes (s : State) (n : Nat) (f : Matrix → Matrix) : (s.modMx n f).routes = s.routes := rfl
@[simp] theorem State.modMx_snet (s : State) (n : Nat) (f : Matrix → Matrix) : (s.modMx n f).snet = s.snet := rfl
@[simp] theorem State.modMx_bar (s : State) (n : Nat) (f : Matrix → Matrix) : (s.modMx n f).bar = s.bar := rfl
@[simp] theorem State.modMx_links (s : State) (n : Nat) (f : Matrix → Matrix) : (s.modMx n f).links = s.links := rfl
@[simp] theorem State.modMx_power (s : State) (n : Nat) (f : Matrix → Matrix) : (s.modMx n f).power = s.power := rfl
@[simp] theorem State.modMx_vault (s : State) (n : Nat) (f : Matrix → Matrix) : (s.modMx n f).vault = s.vault := rfl
@[simp] theorem State.modMx_manifests (s : State) (n : Nat) (f : Matrix → Matrix) : (s.modMx n f).manifests = s.manifests := rfl
@[simp] theorem State.modMx_nextMan (s : State) (n : Nat) (f : Matrix → Matrix) : (s.modMx n f).nextMan = s.nextMan := rfl
@[simp] theorem State.modMx_deferred (s : State) (n : Nat) (f : Matrix → Matrix) : (s.modMx n f).deferred = s.deferred := rfl
@[simp] theorem State.modMx_toPoison (s : State) (n : Nat) (f : Matrix → Matrix) : (s.modMx n f).toPoison = s.toPoison := rfl
@[simp] theorem State.modMx_known (s : State) (n : Nat) (f : Matrix → Matrix) : (s.modMx n f).known = s.known := rfl
@[simp] theorem State.modMx_outputs (s : State) (n : Nat) (f : Matrix → Matrix) : (s.modMx n f).outputs = s.outputs := rfl
@[simp] theorem State.modMx_absent (s : State) (n : Nat) (f : Matrix → Matrix) : (s.modMx n f).absent = s.absent := rfl

/-! ### modCache: only the cores change -/

@[simp] theorem State.modCache_cur (s : State) (n : Nat) (f : Caches → Caches) : (s.modCache n f).cur = s.cur := rfl
@[simp] theorem State.modCache_sched (s : State) (n : Nat) (f : Caches → Caches) : (s.modCache n f).sched = s.sched := rfl
@[simp] theorem State.modCache_mem (s : State) (n : Nat) (f : Caches → Caches) : (s.modCache n f).mem = s.mem := rfl
@[simp] theorem State.modCache_poison (s : State) (n : Nat) (f : Caches → Caches) : (s.modCache n f).poison = s.poison := rfl
@[simp] theorem State.modCache_owners (s : State) (n : Nat) (f : Caches → Caches) : (s.modCache n f).owners = s.owners := rfl
@[simp] theorem State.modCache_dies (s : State) (n : Nat) (f : Caches → Caches) : (s.modCache n f).dies = s.dies := rfl
@[simp] theorem State.modCache_regions (s : State) (n : Nat) (f : Caches → Caches) : (s.modCache n f).regions = s.regions := rfl
@[simp] theorem State.modCache_domains (s : State) (n : Nat) (f : Caches → Caches) : (s.modCache n f).domains = s.domains := rfl
@[simp] theorem State.modCache_net (s : State) (n : Nat) (f : Caches → Caches) : (s.modCache n f).net = s.net := rfl
@[simp] theorem State.modCache_inbound (s : State) (n : Nat) (f : Caches → Caches) : (s.modCache n f).inbound = s.inbound := rfl
@[simp] theorem State.modCache_answers (s : State) (n : Nat) (f : Caches → Caches) : (s.modCache n f).answers = s.answers := rfl
@[simp] theorem State.modCache_routes (s : State) (n : Nat) (f : Caches → Caches) : (s.modCache n f).routes = s.routes := rfl
@[simp] theorem State.modCache_snet (s : State) (n : Nat) (f : Caches → Caches) : (s.modCache n f).snet = s.snet := rfl
@[simp] theorem State.modCache_bar (s : State) (n : Nat) (f : Caches → Caches) : (s.modCache n f).bar = s.bar := rfl
@[simp] theorem State.modCache_links (s : State) (n : Nat) (f : Caches → Caches) : (s.modCache n f).links = s.links := rfl
@[simp] theorem State.modCache_power (s : State) (n : Nat) (f : Caches → Caches) : (s.modCache n f).power = s.power := rfl
@[simp] theorem State.modCache_vault (s : State) (n : Nat) (f : Caches → Caches) : (s.modCache n f).vault = s.vault := rfl
@[simp] theorem State.modCache_manifests (s : State) (n : Nat) (f : Caches → Caches) : (s.modCache n f).manifests = s.manifests := rfl
@[simp] theorem State.modCache_nextMan (s : State) (n : Nat) (f : Caches → Caches) : (s.modCache n f).nextMan = s.nextMan := rfl
@[simp] theorem State.modCache_deferred (s : State) (n : Nat) (f : Caches → Caches) : (s.modCache n f).deferred = s.deferred := rfl
@[simp] theorem State.modCache_toPoison (s : State) (n : Nat) (f : Caches → Caches) : (s.modCache n f).toPoison = s.toPoison := rfl
@[simp] theorem State.modCache_known (s : State) (n : Nat) (f : Caches → Caches) : (s.modCache n f).known = s.known := rfl
@[simp] theorem State.modCache_outputs (s : State) (n : Nat) (f : Caches → Caches) : (s.modCache n f).outputs = s.outputs := rfl
@[simp] theorem State.modCache_absent (s : State) (n : Nat) (f : Caches → Caches) : (s.modCache n f).absent = s.absent := rfl

/-! ### modDie: only the dies change -/

@[simp] theorem State.modDie_cur (s : State) (d : BitVec 2) (f : Die → Die) : (s.modDie d f).cur = s.cur := rfl
@[simp] theorem State.modDie_sched (s : State) (d : BitVec 2) (f : Die → Die) : (s.modDie d f).sched = s.sched := rfl
@[simp] theorem State.modDie_mem (s : State) (d : BitVec 2) (f : Die → Die) : (s.modDie d f).mem = s.mem := rfl
@[simp] theorem State.modDie_poison (s : State) (d : BitVec 2) (f : Die → Die) : (s.modDie d f).poison = s.poison := rfl
@[simp] theorem State.modDie_owners (s : State) (d : BitVec 2) (f : Die → Die) : (s.modDie d f).owners = s.owners := rfl
@[simp] theorem State.modDie_cores (s : State) (d : BitVec 2) (f : Die → Die) : (s.modDie d f).cores = s.cores := rfl
@[simp] theorem State.modDie_regions (s : State) (d : BitVec 2) (f : Die → Die) : (s.modDie d f).regions = s.regions := rfl
@[simp] theorem State.modDie_domains (s : State) (d : BitVec 2) (f : Die → Die) : (s.modDie d f).domains = s.domains := rfl
@[simp] theorem State.modDie_net (s : State) (d : BitVec 2) (f : Die → Die) : (s.modDie d f).net = s.net := rfl
@[simp] theorem State.modDie_inbound (s : State) (d : BitVec 2) (f : Die → Die) : (s.modDie d f).inbound = s.inbound := rfl
@[simp] theorem State.modDie_answers (s : State) (d : BitVec 2) (f : Die → Die) : (s.modDie d f).answers = s.answers := rfl
@[simp] theorem State.modDie_routes (s : State) (d : BitVec 2) (f : Die → Die) : (s.modDie d f).routes = s.routes := rfl
@[simp] theorem State.modDie_snet (s : State) (d : BitVec 2) (f : Die → Die) : (s.modDie d f).snet = s.snet := rfl
@[simp] theorem State.modDie_bar (s : State) (d : BitVec 2) (f : Die → Die) : (s.modDie d f).bar = s.bar := rfl
@[simp] theorem State.modDie_links (s : State) (d : BitVec 2) (f : Die → Die) : (s.modDie d f).links = s.links := rfl
@[simp] theorem State.modDie_power (s : State) (d : BitVec 2) (f : Die → Die) : (s.modDie d f).power = s.power := rfl
@[simp] theorem State.modDie_vault (s : State) (d : BitVec 2) (f : Die → Die) : (s.modDie d f).vault = s.vault := rfl
@[simp] theorem State.modDie_manifests (s : State) (d : BitVec 2) (f : Die → Die) : (s.modDie d f).manifests = s.manifests := rfl
@[simp] theorem State.modDie_nextMan (s : State) (d : BitVec 2) (f : Die → Die) : (s.modDie d f).nextMan = s.nextMan := rfl
@[simp] theorem State.modDie_deferred (s : State) (d : BitVec 2) (f : Die → Die) : (s.modDie d f).deferred = s.deferred := rfl
@[simp] theorem State.modDie_toPoison (s : State) (d : BitVec 2) (f : Die → Die) : (s.modDie d f).toPoison = s.toPoison := rfl
@[simp] theorem State.modDie_known (s : State) (d : BitVec 2) (f : Die → Die) : (s.modDie d f).known = s.known := rfl
@[simp] theorem State.modDie_outputs (s : State) (d : BitVec 2) (f : Die → Die) : (s.modDie d f).outputs = s.outputs := rfl
@[simp] theorem State.modDie_absent (s : State) (d : BitVec 2) (f : Die → Die) : (s.modDie d f).absent = s.absent := rfl

/-! ### modRegion: only the regions change -/

@[simp] theorem State.modRegion_cur (s : State) (r : BitVec 16) (f : Region → Region) : (s.modRegion r f).cur = s.cur := rfl
@[simp] theorem State.modRegion_sched (s : State) (r : BitVec 16) (f : Region → Region) : (s.modRegion r f).sched = s.sched := rfl
@[simp] theorem State.modRegion_mem (s : State) (r : BitVec 16) (f : Region → Region) : (s.modRegion r f).mem = s.mem := rfl
@[simp] theorem State.modRegion_poison (s : State) (r : BitVec 16) (f : Region → Region) : (s.modRegion r f).poison = s.poison := rfl
@[simp] theorem State.modRegion_owners (s : State) (r : BitVec 16) (f : Region → Region) : (s.modRegion r f).owners = s.owners := rfl
@[simp] theorem State.modRegion_cores (s : State) (r : BitVec 16) (f : Region → Region) : (s.modRegion r f).cores = s.cores := rfl
@[simp] theorem State.modRegion_dies (s : State) (r : BitVec 16) (f : Region → Region) : (s.modRegion r f).dies = s.dies := rfl
@[simp] theorem State.modRegion_domains (s : State) (r : BitVec 16) (f : Region → Region) : (s.modRegion r f).domains = s.domains := rfl
@[simp] theorem State.modRegion_net (s : State) (r : BitVec 16) (f : Region → Region) : (s.modRegion r f).net = s.net := rfl
@[simp] theorem State.modRegion_inbound (s : State) (r : BitVec 16) (f : Region → Region) : (s.modRegion r f).inbound = s.inbound := rfl
@[simp] theorem State.modRegion_answers (s : State) (r : BitVec 16) (f : Region → Region) : (s.modRegion r f).answers = s.answers := rfl
@[simp] theorem State.modRegion_routes (s : State) (r : BitVec 16) (f : Region → Region) : (s.modRegion r f).routes = s.routes := rfl
@[simp] theorem State.modRegion_snet (s : State) (r : BitVec 16) (f : Region → Region) : (s.modRegion r f).snet = s.snet := rfl
@[simp] theorem State.modRegion_bar (s : State) (r : BitVec 16) (f : Region → Region) : (s.modRegion r f).bar = s.bar := rfl
@[simp] theorem State.modRegion_links (s : State) (r : BitVec 16) (f : Region → Region) : (s.modRegion r f).links = s.links := rfl
@[simp] theorem State.modRegion_power (s : State) (r : BitVec 16) (f : Region → Region) : (s.modRegion r f).power = s.power := rfl
@[simp] theorem State.modRegion_vault (s : State) (r : BitVec 16) (f : Region → Region) : (s.modRegion r f).vault = s.vault := rfl
@[simp] theorem State.modRegion_manifests (s : State) (r : BitVec 16) (f : Region → Region) : (s.modRegion r f).manifests = s.manifests := rfl
@[simp] theorem State.modRegion_nextMan (s : State) (r : BitVec 16) (f : Region → Region) : (s.modRegion r f).nextMan = s.nextMan := rfl
@[simp] theorem State.modRegion_deferred (s : State) (r : BitVec 16) (f : Region → Region) : (s.modRegion r f).deferred = s.deferred := rfl
@[simp] theorem State.modRegion_toPoison (s : State) (r : BitVec 16) (f : Region → Region) : (s.modRegion r f).toPoison = s.toPoison := rfl
@[simp] theorem State.modRegion_known (s : State) (r : BitVec 16) (f : Region → Region) : (s.modRegion r f).known = s.known := rfl
@[simp] theorem State.modRegion_outputs (s : State) (r : BitVec 16) (f : Region → Region) : (s.modRegion r f).outputs = s.outputs := rfl
@[simp] theorem State.modRegion_absent (s : State) (r : BitVec 16) (f : Region → Region) : (s.modRegion r f).absent = s.absent := rfl

/-! ### modDomain: only the domains change -/

@[simp] theorem State.modDomain_cur (s : State) (r : BitVec 16) (f : Domain → Domain) : (s.modDomain r f).cur = s.cur := rfl
@[simp] theorem State.modDomain_sched (s : State) (r : BitVec 16) (f : Domain → Domain) : (s.modDomain r f).sched = s.sched := rfl
@[simp] theorem State.modDomain_mem (s : State) (r : BitVec 16) (f : Domain → Domain) : (s.modDomain r f).mem = s.mem := rfl
@[simp] theorem State.modDomain_poison (s : State) (r : BitVec 16) (f : Domain → Domain) : (s.modDomain r f).poison = s.poison := rfl
@[simp] theorem State.modDomain_owners (s : State) (r : BitVec 16) (f : Domain → Domain) : (s.modDomain r f).owners = s.owners := rfl
@[simp] theorem State.modDomain_cores (s : State) (r : BitVec 16) (f : Domain → Domain) : (s.modDomain r f).cores = s.cores := rfl
@[simp] theorem State.modDomain_dies (s : State) (r : BitVec 16) (f : Domain → Domain) : (s.modDomain r f).dies = s.dies := rfl
@[simp] theorem State.modDomain_regions (s : State) (r : BitVec 16) (f : Domain → Domain) : (s.modDomain r f).regions = s.regions := rfl
@[simp] theorem State.modDomain_net (s : State) (r : BitVec 16) (f : Domain → Domain) : (s.modDomain r f).net = s.net := rfl
@[simp] theorem State.modDomain_inbound (s : State) (r : BitVec 16) (f : Domain → Domain) : (s.modDomain r f).inbound = s.inbound := rfl
@[simp] theorem State.modDomain_answers (s : State) (r : BitVec 16) (f : Domain → Domain) : (s.modDomain r f).answers = s.answers := rfl
@[simp] theorem State.modDomain_routes (s : State) (r : BitVec 16) (f : Domain → Domain) : (s.modDomain r f).routes = s.routes := rfl
@[simp] theorem State.modDomain_snet (s : State) (r : BitVec 16) (f : Domain → Domain) : (s.modDomain r f).snet = s.snet := rfl
@[simp] theorem State.modDomain_bar (s : State) (r : BitVec 16) (f : Domain → Domain) : (s.modDomain r f).bar = s.bar := rfl
@[simp] theorem State.modDomain_links (s : State) (r : BitVec 16) (f : Domain → Domain) : (s.modDomain r f).links = s.links := rfl
@[simp] theorem State.modDomain_power (s : State) (r : BitVec 16) (f : Domain → Domain) : (s.modDomain r f).power = s.power := rfl
@[simp] theorem State.modDomain_vault (s : State) (r : BitVec 16) (f : Domain → Domain) : (s.modDomain r f).vault = s.vault := rfl
@[simp] theorem State.modDomain_manifests (s : State) (r : BitVec 16) (f : Domain → Domain) : (s.modDomain r f).manifests = s.manifests := rfl
@[simp] theorem State.modDomain_nextMan (s : State) (r : BitVec 16) (f : Domain → Domain) : (s.modDomain r f).nextMan = s.nextMan := rfl
@[simp] theorem State.modDomain_deferred (s : State) (r : BitVec 16) (f : Domain → Domain) : (s.modDomain r f).deferred = s.deferred := rfl
@[simp] theorem State.modDomain_toPoison (s : State) (r : BitVec 16) (f : Domain → Domain) : (s.modDomain r f).toPoison = s.toPoison := rfl
@[simp] theorem State.modDomain_known (s : State) (r : BitVec 16) (f : Domain → Domain) : (s.modDomain r f).known = s.known := rfl
@[simp] theorem State.modDomain_outputs (s : State) (r : BitVec 16) (f : Domain → Domain) : (s.modDomain r f).outputs = s.outputs := rfl
@[simp] theorem State.modDomain_absent (s : State) (r : BitVec 16) (f : Domain → Domain) : (s.modDomain r f).absent = s.absent := rfl

/-! ### modFn: only BAR 0 changes -/

@[simp] theorem State.modFn_cur (s : State) (f : Fn) (g : FnRegs → FnRegs) : (s.modFn f g).cur = s.cur := rfl
@[simp] theorem State.modFn_sched (s : State) (f : Fn) (g : FnRegs → FnRegs) : (s.modFn f g).sched = s.sched := rfl
@[simp] theorem State.modFn_mem (s : State) (f : Fn) (g : FnRegs → FnRegs) : (s.modFn f g).mem = s.mem := rfl
@[simp] theorem State.modFn_poison (s : State) (f : Fn) (g : FnRegs → FnRegs) : (s.modFn f g).poison = s.poison := rfl
@[simp] theorem State.modFn_owners (s : State) (f : Fn) (g : FnRegs → FnRegs) : (s.modFn f g).owners = s.owners := rfl
@[simp] theorem State.modFn_cores (s : State) (f : Fn) (g : FnRegs → FnRegs) : (s.modFn f g).cores = s.cores := rfl
@[simp] theorem State.modFn_dies (s : State) (f : Fn) (g : FnRegs → FnRegs) : (s.modFn f g).dies = s.dies := rfl
@[simp] theorem State.modFn_regions (s : State) (f : Fn) (g : FnRegs → FnRegs) : (s.modFn f g).regions = s.regions := rfl
@[simp] theorem State.modFn_domains (s : State) (f : Fn) (g : FnRegs → FnRegs) : (s.modFn f g).domains = s.domains := rfl
@[simp] theorem State.modFn_net (s : State) (f : Fn) (g : FnRegs → FnRegs) : (s.modFn f g).net = s.net := rfl
@[simp] theorem State.modFn_inbound (s : State) (f : Fn) (g : FnRegs → FnRegs) : (s.modFn f g).inbound = s.inbound := rfl
@[simp] theorem State.modFn_answers (s : State) (f : Fn) (g : FnRegs → FnRegs) : (s.modFn f g).answers = s.answers := rfl
@[simp] theorem State.modFn_routes (s : State) (f : Fn) (g : FnRegs → FnRegs) : (s.modFn f g).routes = s.routes := rfl
@[simp] theorem State.modFn_snet (s : State) (f : Fn) (g : FnRegs → FnRegs) : (s.modFn f g).snet = s.snet := rfl
@[simp] theorem State.modFn_links (s : State) (f : Fn) (g : FnRegs → FnRegs) : (s.modFn f g).links = s.links := rfl
@[simp] theorem State.modFn_power (s : State) (f : Fn) (g : FnRegs → FnRegs) : (s.modFn f g).power = s.power := rfl
@[simp] theorem State.modFn_vault (s : State) (f : Fn) (g : FnRegs → FnRegs) : (s.modFn f g).vault = s.vault := rfl
@[simp] theorem State.modFn_manifests (s : State) (f : Fn) (g : FnRegs → FnRegs) : (s.modFn f g).manifests = s.manifests := rfl
@[simp] theorem State.modFn_nextMan (s : State) (f : Fn) (g : FnRegs → FnRegs) : (s.modFn f g).nextMan = s.nextMan := rfl
@[simp] theorem State.modFn_deferred (s : State) (f : Fn) (g : FnRegs → FnRegs) : (s.modFn f g).deferred = s.deferred := rfl
@[simp] theorem State.modFn_toPoison (s : State) (f : Fn) (g : FnRegs → FnRegs) : (s.modFn f g).toPoison = s.toPoison := rfl
@[simp] theorem State.modFn_known (s : State) (f : Fn) (g : FnRegs → FnRegs) : (s.modFn f g).known = s.known := rfl
@[simp] theorem State.modFn_outputs (s : State) (f : Fn) (g : FnRegs → FnRegs) : (s.modFn f g).outputs = s.outputs := rfl
@[simp] theorem State.modFn_absent (s : State) (f : Fn) (g : FnRegs → FnRegs) : (s.modFn f g).absent = s.absent := rfl

/-! ### tickFresh: only the schedule changes -/

@[simp] theorem State.tickFresh_cur (s : State) : (s.tickFresh).cur = s.cur := rfl
@[simp] theorem State.tickFresh_mem (s : State) : (s.tickFresh).mem = s.mem := rfl
@[simp] theorem State.tickFresh_poison (s : State) : (s.tickFresh).poison = s.poison := rfl
@[simp] theorem State.tickFresh_owners (s : State) : (s.tickFresh).owners = s.owners := rfl
@[simp] theorem State.tickFresh_cores (s : State) : (s.tickFresh).cores = s.cores := rfl
@[simp] theorem State.tickFresh_dies (s : State) : (s.tickFresh).dies = s.dies := rfl
@[simp] theorem State.tickFresh_regions (s : State) : (s.tickFresh).regions = s.regions := rfl
@[simp] theorem State.tickFresh_domains (s : State) : (s.tickFresh).domains = s.domains := rfl
@[simp] theorem State.tickFresh_net (s : State) : (s.tickFresh).net = s.net := rfl
@[simp] theorem State.tickFresh_inbound (s : State) : (s.tickFresh).inbound = s.inbound := rfl
@[simp] theorem State.tickFresh_answers (s : State) : (s.tickFresh).answers = s.answers := rfl
@[simp] theorem State.tickFresh_routes (s : State) : (s.tickFresh).routes = s.routes := rfl
@[simp] theorem State.tickFresh_snet (s : State) : (s.tickFresh).snet = s.snet := rfl
@[simp] theorem State.tickFresh_bar (s : State) : (s.tickFresh).bar = s.bar := rfl
@[simp] theorem State.tickFresh_links (s : State) : (s.tickFresh).links = s.links := rfl
@[simp] theorem State.tickFresh_power (s : State) : (s.tickFresh).power = s.power := rfl
@[simp] theorem State.tickFresh_vault (s : State) : (s.tickFresh).vault = s.vault := rfl
@[simp] theorem State.tickFresh_manifests (s : State) : (s.tickFresh).manifests = s.manifests := rfl
@[simp] theorem State.tickFresh_nextMan (s : State) : (s.tickFresh).nextMan = s.nextMan := rfl
@[simp] theorem State.tickFresh_deferred (s : State) : (s.tickFresh).deferred = s.deferred := rfl
@[simp] theorem State.tickFresh_toPoison (s : State) : (s.tickFresh).toPoison = s.toPoison := rfl
@[simp] theorem State.tickFresh_known (s : State) : (s.tickFresh).known = s.known := rfl
@[simp] theorem State.tickFresh_outputs (s : State) : (s.tickFresh).outputs = s.outputs := rfl
@[simp] theorem State.tickFresh_absent (s : State) : (s.tickFresh).absent = s.absent := rfl

/-! ### newId: only the schedule changes -/

@[simp] theorem State.newId_cur (s : State) : (s.newId.2).cur = s.cur := rfl
@[simp] theorem State.newId_mem (s : State) : (s.newId.2).mem = s.mem := rfl
@[simp] theorem State.newId_poison (s : State) : (s.newId.2).poison = s.poison := rfl
@[simp] theorem State.newId_owners (s : State) : (s.newId.2).owners = s.owners := rfl
@[simp] theorem State.newId_cores (s : State) : (s.newId.2).cores = s.cores := rfl
@[simp] theorem State.newId_dies (s : State) : (s.newId.2).dies = s.dies := rfl
@[simp] theorem State.newId_regions (s : State) : (s.newId.2).regions = s.regions := rfl
@[simp] theorem State.newId_domains (s : State) : (s.newId.2).domains = s.domains := rfl
@[simp] theorem State.newId_net (s : State) : (s.newId.2).net = s.net := rfl
@[simp] theorem State.newId_inbound (s : State) : (s.newId.2).inbound = s.inbound := rfl
@[simp] theorem State.newId_answers (s : State) : (s.newId.2).answers = s.answers := rfl
@[simp] theorem State.newId_routes (s : State) : (s.newId.2).routes = s.routes := rfl
@[simp] theorem State.newId_snet (s : State) : (s.newId.2).snet = s.snet := rfl
@[simp] theorem State.newId_bar (s : State) : (s.newId.2).bar = s.bar := rfl
@[simp] theorem State.newId_links (s : State) : (s.newId.2).links = s.links := rfl
@[simp] theorem State.newId_power (s : State) : (s.newId.2).power = s.power := rfl
@[simp] theorem State.newId_vault (s : State) : (s.newId.2).vault = s.vault := rfl
@[simp] theorem State.newId_manifests (s : State) : (s.newId.2).manifests = s.manifests := rfl
@[simp] theorem State.newId_nextMan (s : State) : (s.newId.2).nextMan = s.nextMan := rfl
@[simp] theorem State.newId_deferred (s : State) : (s.newId.2).deferred = s.deferred := rfl
@[simp] theorem State.newId_toPoison (s : State) : (s.newId.2).toPoison = s.toPoison := rfl
@[simp] theorem State.newId_known (s : State) : (s.newId.2).known = s.known := rfl
@[simp] theorem State.newId_outputs (s : State) : (s.newId.2).outputs = s.outputs := rfl
@[simp] theorem State.newId_absent (s : State) : (s.newId.2).absent = s.absent := rfl

/-! ### schedule: only the schedule changes -/

@[simp] theorem State.schedule_cur (s : State) (c : Nat) (e : Event) : (s.schedule c e).cur = s.cur := rfl
@[simp] theorem State.schedule_mem (s : State) (c : Nat) (e : Event) : (s.schedule c e).mem = s.mem := rfl
@[simp] theorem State.schedule_poison (s : State) (c : Nat) (e : Event) : (s.schedule c e).poison = s.poison := rfl
@[simp] theorem State.schedule_owners (s : State) (c : Nat) (e : Event) : (s.schedule c e).owners = s.owners := rfl
@[simp] theorem State.schedule_cores (s : State) (c : Nat) (e : Event) : (s.schedule c e).cores = s.cores := rfl
@[simp] theorem State.schedule_dies (s : State) (c : Nat) (e : Event) : (s.schedule c e).dies = s.dies := rfl
@[simp] theorem State.schedule_regions (s : State) (c : Nat) (e : Event) : (s.schedule c e).regions = s.regions := rfl
@[simp] theorem State.schedule_domains (s : State) (c : Nat) (e : Event) : (s.schedule c e).domains = s.domains := rfl
@[simp] theorem State.schedule_net (s : State) (c : Nat) (e : Event) : (s.schedule c e).net = s.net := rfl
@[simp] theorem State.schedule_inbound (s : State) (c : Nat) (e : Event) : (s.schedule c e).inbound = s.inbound := rfl
@[simp] theorem State.schedule_answers (s : State) (c : Nat) (e : Event) : (s.schedule c e).answers = s.answers := rfl
@[simp] theorem State.schedule_routes (s : State) (c : Nat) (e : Event) : (s.schedule c e).routes = s.routes := rfl
@[simp] theorem State.schedule_snet (s : State) (c : Nat) (e : Event) : (s.schedule c e).snet = s.snet := rfl
@[simp] theorem State.schedule_bar (s : State) (c : Nat) (e : Event) : (s.schedule c e).bar = s.bar := rfl
@[simp] theorem State.schedule_links (s : State) (c : Nat) (e : Event) : (s.schedule c e).links = s.links := rfl
@[simp] theorem State.schedule_power (s : State) (c : Nat) (e : Event) : (s.schedule c e).power = s.power := rfl
@[simp] theorem State.schedule_vault (s : State) (c : Nat) (e : Event) : (s.schedule c e).vault = s.vault := rfl
@[simp] theorem State.schedule_manifests (s : State) (c : Nat) (e : Event) : (s.schedule c e).manifests = s.manifests := rfl
@[simp] theorem State.schedule_nextMan (s : State) (c : Nat) (e : Event) : (s.schedule c e).nextMan = s.nextMan := rfl
@[simp] theorem State.schedule_deferred (s : State) (c : Nat) (e : Event) : (s.schedule c e).deferred = s.deferred := rfl
@[simp] theorem State.schedule_toPoison (s : State) (c : Nat) (e : Event) : (s.schedule c e).toPoison = s.toPoison := rfl
@[simp] theorem State.schedule_known (s : State) (c : Nat) (e : Event) : (s.schedule c e).known = s.known := rfl
@[simp] theorem State.schedule_outputs (s : State) (c : Nat) (e : Event) : (s.schedule c e).outputs = s.outputs := rfl
@[simp] theorem State.schedule_absent (s : State) (c : Nat) (e : Event) : (s.schedule c e).absent = s.absent := rfl

/-! ### emit: only the outputs change -/

@[simp] theorem State.emit_cur (s : State) (o : Output) : (s.emit o).cur = s.cur := rfl
@[simp] theorem State.emit_sched (s : State) (o : Output) : (s.emit o).sched = s.sched := rfl
@[simp] theorem State.emit_mem (s : State) (o : Output) : (s.emit o).mem = s.mem := rfl
@[simp] theorem State.emit_poison (s : State) (o : Output) : (s.emit o).poison = s.poison := rfl
@[simp] theorem State.emit_owners (s : State) (o : Output) : (s.emit o).owners = s.owners := rfl
@[simp] theorem State.emit_cores (s : State) (o : Output) : (s.emit o).cores = s.cores := rfl
@[simp] theorem State.emit_dies (s : State) (o : Output) : (s.emit o).dies = s.dies := rfl
@[simp] theorem State.emit_regions (s : State) (o : Output) : (s.emit o).regions = s.regions := rfl
@[simp] theorem State.emit_domains (s : State) (o : Output) : (s.emit o).domains = s.domains := rfl
@[simp] theorem State.emit_net (s : State) (o : Output) : (s.emit o).net = s.net := rfl
@[simp] theorem State.emit_inbound (s : State) (o : Output) : (s.emit o).inbound = s.inbound := rfl
@[simp] theorem State.emit_answers (s : State) (o : Output) : (s.emit o).answers = s.answers := rfl
@[simp] theorem State.emit_routes (s : State) (o : Output) : (s.emit o).routes = s.routes := rfl
@[simp] theorem State.emit_snet (s : State) (o : Output) : (s.emit o).snet = s.snet := rfl
@[simp] theorem State.emit_bar (s : State) (o : Output) : (s.emit o).bar = s.bar := rfl
@[simp] theorem State.emit_links (s : State) (o : Output) : (s.emit o).links = s.links := rfl
@[simp] theorem State.emit_power (s : State) (o : Output) : (s.emit o).power = s.power := rfl
@[simp] theorem State.emit_vault (s : State) (o : Output) : (s.emit o).vault = s.vault := rfl
@[simp] theorem State.emit_manifests (s : State) (o : Output) : (s.emit o).manifests = s.manifests := rfl
@[simp] theorem State.emit_nextMan (s : State) (o : Output) : (s.emit o).nextMan = s.nextMan := rfl
@[simp] theorem State.emit_deferred (s : State) (o : Output) : (s.emit o).deferred = s.deferred := rfl
@[simp] theorem State.emit_toPoison (s : State) (o : Output) : (s.emit o).toPoison = s.toPoison := rfl
@[simp] theorem State.emit_known (s : State) (o : Output) : (s.emit o).known = s.known := rfl
@[simp] theorem State.emit_absent (s : State) (o : Output) : (s.emit o).absent = s.absent := rfl

/-! ### setIssue: only the issue context changes -/

@[simp] theorem State.setIssue_sched (s : State) (i : Issue) : (s.setIssue i).sched = s.sched := rfl
@[simp] theorem State.setIssue_mem (s : State) (i : Issue) : (s.setIssue i).mem = s.mem := rfl
@[simp] theorem State.setIssue_poison (s : State) (i : Issue) : (s.setIssue i).poison = s.poison := rfl
@[simp] theorem State.setIssue_owners (s : State) (i : Issue) : (s.setIssue i).owners = s.owners := rfl
@[simp] theorem State.setIssue_cores (s : State) (i : Issue) : (s.setIssue i).cores = s.cores := rfl
@[simp] theorem State.setIssue_dies (s : State) (i : Issue) : (s.setIssue i).dies = s.dies := rfl
@[simp] theorem State.setIssue_regions (s : State) (i : Issue) : (s.setIssue i).regions = s.regions := rfl
@[simp] theorem State.setIssue_domains (s : State) (i : Issue) : (s.setIssue i).domains = s.domains := rfl
@[simp] theorem State.setIssue_net (s : State) (i : Issue) : (s.setIssue i).net = s.net := rfl
@[simp] theorem State.setIssue_inbound (s : State) (i : Issue) : (s.setIssue i).inbound = s.inbound := rfl
@[simp] theorem State.setIssue_answers (s : State) (i : Issue) : (s.setIssue i).answers = s.answers := rfl
@[simp] theorem State.setIssue_routes (s : State) (i : Issue) : (s.setIssue i).routes = s.routes := rfl
@[simp] theorem State.setIssue_snet (s : State) (i : Issue) : (s.setIssue i).snet = s.snet := rfl
@[simp] theorem State.setIssue_bar (s : State) (i : Issue) : (s.setIssue i).bar = s.bar := rfl
@[simp] theorem State.setIssue_links (s : State) (i : Issue) : (s.setIssue i).links = s.links := rfl
@[simp] theorem State.setIssue_power (s : State) (i : Issue) : (s.setIssue i).power = s.power := rfl
@[simp] theorem State.setIssue_vault (s : State) (i : Issue) : (s.setIssue i).vault = s.vault := rfl
@[simp] theorem State.setIssue_manifests (s : State) (i : Issue) : (s.setIssue i).manifests = s.manifests := rfl
@[simp] theorem State.setIssue_nextMan (s : State) (i : Issue) : (s.setIssue i).nextMan = s.nextMan := rfl
@[simp] theorem State.setIssue_deferred (s : State) (i : Issue) : (s.setIssue i).deferred = s.deferred := rfl
@[simp] theorem State.setIssue_toPoison (s : State) (i : Issue) : (s.setIssue i).toPoison = s.toPoison := rfl
@[simp] theorem State.setIssue_known (s : State) (i : Issue) : (s.setIssue i).known = s.known := rfl
@[simp] theorem State.setIssue_outputs (s : State) (i : Issue) : (s.setIssue i).outputs = s.outputs := rfl
@[simp] theorem State.setIssue_absent (s : State) (i : Issue) : (s.setIssue i).absent = s.absent := rfl

/-! ### modThread, modCth, modTid and modOwner: only the cores change -/

@[simp] theorem State.modThread_cur (s : State) (n k : Nat) (f : Thread → Thread) : (s.modThread n k f).cur = s.cur := by
  unfold State.modThread; split <;> rfl
@[simp] theorem State.modThread_sched (s : State) (n k : Nat) (f : Thread → Thread) : (s.modThread n k f).sched = s.sched := by
  unfold State.modThread; split <;> rfl
@[simp] theorem State.modThread_mem (s : State) (n k : Nat) (f : Thread → Thread) : (s.modThread n k f).mem = s.mem := by
  unfold State.modThread; split <;> rfl
@[simp] theorem State.modThread_poison (s : State) (n k : Nat) (f : Thread → Thread) : (s.modThread n k f).poison = s.poison := by
  unfold State.modThread; split <;> rfl
@[simp] theorem State.modThread_owners (s : State) (n k : Nat) (f : Thread → Thread) : (s.modThread n k f).owners = s.owners := by
  unfold State.modThread; split <;> rfl
@[simp] theorem State.modThread_dies (s : State) (n k : Nat) (f : Thread → Thread) : (s.modThread n k f).dies = s.dies := by
  unfold State.modThread; split <;> rfl
@[simp] theorem State.modThread_regions (s : State) (n k : Nat) (f : Thread → Thread) : (s.modThread n k f).regions = s.regions := by
  unfold State.modThread; split <;> rfl
@[simp] theorem State.modThread_domains (s : State) (n k : Nat) (f : Thread → Thread) : (s.modThread n k f).domains = s.domains := by
  unfold State.modThread; split <;> rfl
@[simp] theorem State.modThread_net (s : State) (n k : Nat) (f : Thread → Thread) : (s.modThread n k f).net = s.net := by
  unfold State.modThread; split <;> rfl
@[simp] theorem State.modThread_inbound (s : State) (n k : Nat) (f : Thread → Thread) : (s.modThread n k f).inbound = s.inbound := by
  unfold State.modThread; split <;> rfl
@[simp] theorem State.modThread_answers (s : State) (n k : Nat) (f : Thread → Thread) : (s.modThread n k f).answers = s.answers := by
  unfold State.modThread; split <;> rfl
@[simp] theorem State.modThread_routes (s : State) (n k : Nat) (f : Thread → Thread) : (s.modThread n k f).routes = s.routes := by
  unfold State.modThread; split <;> rfl
@[simp] theorem State.modThread_snet (s : State) (n k : Nat) (f : Thread → Thread) : (s.modThread n k f).snet = s.snet := by
  unfold State.modThread; split <;> rfl
@[simp] theorem State.modThread_bar (s : State) (n k : Nat) (f : Thread → Thread) : (s.modThread n k f).bar = s.bar := by
  unfold State.modThread; split <;> rfl
@[simp] theorem State.modThread_links (s : State) (n k : Nat) (f : Thread → Thread) : (s.modThread n k f).links = s.links := by
  unfold State.modThread; split <;> rfl
@[simp] theorem State.modThread_power (s : State) (n k : Nat) (f : Thread → Thread) : (s.modThread n k f).power = s.power := by
  unfold State.modThread; split <;> rfl
@[simp] theorem State.modThread_vault (s : State) (n k : Nat) (f : Thread → Thread) : (s.modThread n k f).vault = s.vault := by
  unfold State.modThread; split <;> rfl
@[simp] theorem State.modThread_manifests (s : State) (n k : Nat) (f : Thread → Thread) : (s.modThread n k f).manifests = s.manifests := by
  unfold State.modThread; split <;> rfl
@[simp] theorem State.modThread_nextMan (s : State) (n k : Nat) (f : Thread → Thread) : (s.modThread n k f).nextMan = s.nextMan := by
  unfold State.modThread; split <;> rfl
@[simp] theorem State.modThread_deferred (s : State) (n k : Nat) (f : Thread → Thread) : (s.modThread n k f).deferred = s.deferred := by
  unfold State.modThread; split <;> rfl
@[simp] theorem State.modThread_toPoison (s : State) (n k : Nat) (f : Thread → Thread) : (s.modThread n k f).toPoison = s.toPoison := by
  unfold State.modThread; split <;> rfl
@[simp] theorem State.modThread_known (s : State) (n k : Nat) (f : Thread → Thread) : (s.modThread n k f).known = s.known := by
  unfold State.modThread; split <;> rfl
@[simp] theorem State.modThread_outputs (s : State) (n k : Nat) (f : Thread → Thread) : (s.modThread n k f).outputs = s.outputs := by
  unfold State.modThread; split <;> rfl
@[simp] theorem State.modThread_absent (s : State) (n k : Nat) (f : Thread → Thread) : (s.modThread n k f).absent = s.absent := by
  unfold State.modThread; split <;> rfl
@[simp] theorem State.modCth_cur (s : State) (f : Thread → Thread) : (s.modCth f).cur = s.cur := State.modThread_cur ..
@[simp] theorem State.modCth_sched (s : State) (f : Thread → Thread) : (s.modCth f).sched = s.sched := State.modThread_sched ..
@[simp] theorem State.modCth_mem (s : State) (f : Thread → Thread) : (s.modCth f).mem = s.mem := State.modThread_mem ..
@[simp] theorem State.modCth_poison (s : State) (f : Thread → Thread) : (s.modCth f).poison = s.poison := State.modThread_poison ..
@[simp] theorem State.modCth_owners (s : State) (f : Thread → Thread) : (s.modCth f).owners = s.owners := State.modThread_owners ..
@[simp] theorem State.modCth_dies (s : State) (f : Thread → Thread) : (s.modCth f).dies = s.dies := State.modThread_dies ..
@[simp] theorem State.modCth_regions (s : State) (f : Thread → Thread) : (s.modCth f).regions = s.regions := State.modThread_regions ..
@[simp] theorem State.modCth_domains (s : State) (f : Thread → Thread) : (s.modCth f).domains = s.domains := State.modThread_domains ..
@[simp] theorem State.modCth_net (s : State) (f : Thread → Thread) : (s.modCth f).net = s.net := State.modThread_net ..
@[simp] theorem State.modCth_inbound (s : State) (f : Thread → Thread) : (s.modCth f).inbound = s.inbound := State.modThread_inbound ..
@[simp] theorem State.modCth_answers (s : State) (f : Thread → Thread) : (s.modCth f).answers = s.answers := State.modThread_answers ..
@[simp] theorem State.modCth_routes (s : State) (f : Thread → Thread) : (s.modCth f).routes = s.routes := State.modThread_routes ..
@[simp] theorem State.modCth_snet (s : State) (f : Thread → Thread) : (s.modCth f).snet = s.snet := State.modThread_snet ..
@[simp] theorem State.modCth_bar (s : State) (f : Thread → Thread) : (s.modCth f).bar = s.bar := State.modThread_bar ..
@[simp] theorem State.modCth_links (s : State) (f : Thread → Thread) : (s.modCth f).links = s.links := State.modThread_links ..
@[simp] theorem State.modCth_power (s : State) (f : Thread → Thread) : (s.modCth f).power = s.power := State.modThread_power ..
@[simp] theorem State.modCth_vault (s : State) (f : Thread → Thread) : (s.modCth f).vault = s.vault := State.modThread_vault ..
@[simp] theorem State.modCth_manifests (s : State) (f : Thread → Thread) : (s.modCth f).manifests = s.manifests := State.modThread_manifests ..
@[simp] theorem State.modCth_nextMan (s : State) (f : Thread → Thread) : (s.modCth f).nextMan = s.nextMan := State.modThread_nextMan ..
@[simp] theorem State.modCth_deferred (s : State) (f : Thread → Thread) : (s.modCth f).deferred = s.deferred := State.modThread_deferred ..
@[simp] theorem State.modCth_toPoison (s : State) (f : Thread → Thread) : (s.modCth f).toPoison = s.toPoison := State.modThread_toPoison ..
@[simp] theorem State.modCth_known (s : State) (f : Thread → Thread) : (s.modCth f).known = s.known := State.modThread_known ..
@[simp] theorem State.modCth_outputs (s : State) (f : Thread → Thread) : (s.modCth f).outputs = s.outputs := State.modThread_outputs ..
@[simp] theorem State.modCth_absent (s : State) (f : Thread → Thread) : (s.modCth f).absent = s.absent := State.modThread_absent ..
@[simp] theorem State.modTid_cur (s : State) (n i : Nat) (f : Thread → Thread) : (s.modTid n i f).cur = s.cur := by
  unfold State.modTid; split <;> simp
@[simp] theorem State.modTid_sched (s : State) (n i : Nat) (f : Thread → Thread) : (s.modTid n i f).sched = s.sched := by
  unfold State.modTid; split <;> simp
@[simp] theorem State.modTid_mem (s : State) (n i : Nat) (f : Thread → Thread) : (s.modTid n i f).mem = s.mem := by
  unfold State.modTid; split <;> simp
@[simp] theorem State.modTid_poison (s : State) (n i : Nat) (f : Thread → Thread) : (s.modTid n i f).poison = s.poison := by
  unfold State.modTid; split <;> simp
@[simp] theorem State.modTid_owners (s : State) (n i : Nat) (f : Thread → Thread) : (s.modTid n i f).owners = s.owners := by
  unfold State.modTid; split <;> simp
@[simp] theorem State.modTid_dies (s : State) (n i : Nat) (f : Thread → Thread) : (s.modTid n i f).dies = s.dies := by
  unfold State.modTid; split <;> simp
@[simp] theorem State.modTid_regions (s : State) (n i : Nat) (f : Thread → Thread) : (s.modTid n i f).regions = s.regions := by
  unfold State.modTid; split <;> simp
@[simp] theorem State.modTid_domains (s : State) (n i : Nat) (f : Thread → Thread) : (s.modTid n i f).domains = s.domains := by
  unfold State.modTid; split <;> simp
@[simp] theorem State.modTid_net (s : State) (n i : Nat) (f : Thread → Thread) : (s.modTid n i f).net = s.net := by
  unfold State.modTid; split <;> simp
@[simp] theorem State.modTid_inbound (s : State) (n i : Nat) (f : Thread → Thread) : (s.modTid n i f).inbound = s.inbound := by
  unfold State.modTid; split <;> simp
@[simp] theorem State.modTid_answers (s : State) (n i : Nat) (f : Thread → Thread) : (s.modTid n i f).answers = s.answers := by
  unfold State.modTid; split <;> simp
@[simp] theorem State.modTid_routes (s : State) (n i : Nat) (f : Thread → Thread) : (s.modTid n i f).routes = s.routes := by
  unfold State.modTid; split <;> simp
@[simp] theorem State.modTid_snet (s : State) (n i : Nat) (f : Thread → Thread) : (s.modTid n i f).snet = s.snet := by
  unfold State.modTid; split <;> simp
@[simp] theorem State.modTid_bar (s : State) (n i : Nat) (f : Thread → Thread) : (s.modTid n i f).bar = s.bar := by
  unfold State.modTid; split <;> simp
@[simp] theorem State.modTid_links (s : State) (n i : Nat) (f : Thread → Thread) : (s.modTid n i f).links = s.links := by
  unfold State.modTid; split <;> simp
@[simp] theorem State.modTid_power (s : State) (n i : Nat) (f : Thread → Thread) : (s.modTid n i f).power = s.power := by
  unfold State.modTid; split <;> simp
@[simp] theorem State.modTid_vault (s : State) (n i : Nat) (f : Thread → Thread) : (s.modTid n i f).vault = s.vault := by
  unfold State.modTid; split <;> simp
@[simp] theorem State.modTid_manifests (s : State) (n i : Nat) (f : Thread → Thread) : (s.modTid n i f).manifests = s.manifests := by
  unfold State.modTid; split <;> simp
@[simp] theorem State.modTid_nextMan (s : State) (n i : Nat) (f : Thread → Thread) : (s.modTid n i f).nextMan = s.nextMan := by
  unfold State.modTid; split <;> simp
@[simp] theorem State.modTid_deferred (s : State) (n i : Nat) (f : Thread → Thread) : (s.modTid n i f).deferred = s.deferred := by
  unfold State.modTid; split <;> simp
@[simp] theorem State.modTid_toPoison (s : State) (n i : Nat) (f : Thread → Thread) : (s.modTid n i f).toPoison = s.toPoison := by
  unfold State.modTid; split <;> simp
@[simp] theorem State.modTid_known (s : State) (n i : Nat) (f : Thread → Thread) : (s.modTid n i f).known = s.known := by
  unfold State.modTid; split <;> simp
@[simp] theorem State.modTid_outputs (s : State) (n i : Nat) (f : Thread → Thread) : (s.modTid n i f).outputs = s.outputs := by
  unfold State.modTid; split <;> simp
@[simp] theorem State.modTid_absent (s : State) (n i : Nat) (f : Thread → Thread) : (s.modTid n i f).absent = s.absent := by
  unfold State.modTid; split <;> simp
@[simp] theorem State.modOwner_cur (s : State) (n i : Nat) (f : Thread → Thread) : (s.modOwner n i f).cur = s.cur := by
  unfold State.modOwner; split <;> simp
@[simp] theorem State.modOwner_sched (s : State) (n i : Nat) (f : Thread → Thread) : (s.modOwner n i f).sched = s.sched := by
  unfold State.modOwner; split <;> simp
@[simp] theorem State.modOwner_mem (s : State) (n i : Nat) (f : Thread → Thread) : (s.modOwner n i f).mem = s.mem := by
  unfold State.modOwner; split <;> simp
@[simp] theorem State.modOwner_poison (s : State) (n i : Nat) (f : Thread → Thread) : (s.modOwner n i f).poison = s.poison := by
  unfold State.modOwner; split <;> simp
@[simp] theorem State.modOwner_owners (s : State) (n i : Nat) (f : Thread → Thread) : (s.modOwner n i f).owners = s.owners := by
  unfold State.modOwner; split <;> simp
@[simp] theorem State.modOwner_dies (s : State) (n i : Nat) (f : Thread → Thread) : (s.modOwner n i f).dies = s.dies := by
  unfold State.modOwner; split <;> simp
@[simp] theorem State.modOwner_regions (s : State) (n i : Nat) (f : Thread → Thread) : (s.modOwner n i f).regions = s.regions := by
  unfold State.modOwner; split <;> simp
@[simp] theorem State.modOwner_domains (s : State) (n i : Nat) (f : Thread → Thread) : (s.modOwner n i f).domains = s.domains := by
  unfold State.modOwner; split <;> simp
@[simp] theorem State.modOwner_net (s : State) (n i : Nat) (f : Thread → Thread) : (s.modOwner n i f).net = s.net := by
  unfold State.modOwner; split <;> simp
@[simp] theorem State.modOwner_inbound (s : State) (n i : Nat) (f : Thread → Thread) : (s.modOwner n i f).inbound = s.inbound := by
  unfold State.modOwner; split <;> simp
@[simp] theorem State.modOwner_answers (s : State) (n i : Nat) (f : Thread → Thread) : (s.modOwner n i f).answers = s.answers := by
  unfold State.modOwner; split <;> simp
@[simp] theorem State.modOwner_routes (s : State) (n i : Nat) (f : Thread → Thread) : (s.modOwner n i f).routes = s.routes := by
  unfold State.modOwner; split <;> simp
@[simp] theorem State.modOwner_snet (s : State) (n i : Nat) (f : Thread → Thread) : (s.modOwner n i f).snet = s.snet := by
  unfold State.modOwner; split <;> simp
@[simp] theorem State.modOwner_bar (s : State) (n i : Nat) (f : Thread → Thread) : (s.modOwner n i f).bar = s.bar := by
  unfold State.modOwner; split <;> simp
@[simp] theorem State.modOwner_links (s : State) (n i : Nat) (f : Thread → Thread) : (s.modOwner n i f).links = s.links := by
  unfold State.modOwner; split <;> simp
@[simp] theorem State.modOwner_power (s : State) (n i : Nat) (f : Thread → Thread) : (s.modOwner n i f).power = s.power := by
  unfold State.modOwner; split <;> simp
@[simp] theorem State.modOwner_vault (s : State) (n i : Nat) (f : Thread → Thread) : (s.modOwner n i f).vault = s.vault := by
  unfold State.modOwner; split <;> simp
@[simp] theorem State.modOwner_manifests (s : State) (n i : Nat) (f : Thread → Thread) : (s.modOwner n i f).manifests = s.manifests := by
  unfold State.modOwner; split <;> simp
@[simp] theorem State.modOwner_nextMan (s : State) (n i : Nat) (f : Thread → Thread) : (s.modOwner n i f).nextMan = s.nextMan := by
  unfold State.modOwner; split <;> simp
@[simp] theorem State.modOwner_deferred (s : State) (n i : Nat) (f : Thread → Thread) : (s.modOwner n i f).deferred = s.deferred := by
  unfold State.modOwner; split <;> simp
@[simp] theorem State.modOwner_toPoison (s : State) (n i : Nat) (f : Thread → Thread) : (s.modOwner n i f).toPoison = s.toPoison := by
  unfold State.modOwner; split <;> simp
@[simp] theorem State.modOwner_known (s : State) (n i : Nat) (f : Thread → Thread) : (s.modOwner n i f).known = s.known := by
  unfold State.modOwner; split <;> simp
@[simp] theorem State.modOwner_outputs (s : State) (n i : Nat) (f : Thread → Thread) : (s.modOwner n i f).outputs = s.outputs := by
  unfold State.modOwner; split <;> simp
@[simp] theorem State.modOwner_absent (s : State) (n i : Nat) (f : Thread → Thread) : (s.modOwner n i f).absent = s.absent := by
  unfold State.modOwner; split <;> simp

end Sys2Proof.Machine
end

