-- ==== Sys2Proof/Laws/Cores.lean ====
section
/-! SUPPORT. Reading a core, thread, die, region or function register after an update. -/

namespace Sys2Proof.Machine

/-! ### Association lists -/

theorem assocGet_assocSet_same {α : Type} (l : List (Nat × α)) (k : Nat) (v d : α) : assocGet (assocSet l k v) k d = v := by
  induction l with
  | nil => simp [assocSet, assocGet]
  | cons c r ih =>
    obtain ⟨i, w⟩ := c
    by_cases h1 : k < i
    · simp [assocSet, h1, assocGet]
    · by_cases h2 : k = i
      · subst h2; simp [assocSet, assocGet]
      · have h3 : ¬ i = k := fun h => h2 h.symm
        simp [assocSet, h1, h2, assocGet, h3, ih]

theorem assocGet_assocSet_ne {α : Type} (l : List (Nat × α)) (k j : Nat) (v d : α) (h : j ≠ k) :
    assocGet (assocSet l k v) j d = assocGet l j d := by
  induction l with
  | nil => simp [assocSet, assocGet, Ne.symm h]
  | cons c r ih =>
    obtain ⟨i, w⟩ := c
    by_cases h1 : k < i
    · simp [assocSet, h1, assocGet, Ne.symm h]
    · by_cases h2 : k = i
      · subst h2; simp [assocSet, assocGet, Ne.symm h]
      · simp only [assocSet, h1, h2, if_false, assocGet, ih]

/-! ### Cores -/

@[simp] theorem core_setCore_same (s : State) (n : Nat) (c : Core) : (s.setCore n c).core n = c :=
  assocGet_assocSet_same ..

theorem core_setCore_ne (s : State) (n m : Nat) (c : Core) (h : m ≠ n) : (s.setCore n c).core m = s.core m :=
  assocGet_assocSet_ne _ _ _ _ _ h

@[simp] theorem core_modCore_same (s : State) (n : Nat) (f : Core → Core) : (s.modCore n f).core n = f (s.core n) :=
  core_setCore_same ..

theorem core_modCore_ne (s : State) (n m : Nat) (f : Core → Core) (h : m ≠ n) : (s.modCore n f).core m = s.core m :=
  core_setCore_ne _ _ _ _ h

@[simp] theorem core_modEng_same (s : State) (n : Nat) (f : Engine → Engine) :
    (s.modEng n f).core n = { s.core n with eng := f (s.core n).eng } := core_setCore_same ..

@[simp] theorem core_modNet_same (s : State) (n : Nat) (f : CoreNet → CoreNet) :
    (s.modNet n f).core n = { s.core n with net := f (s.core n).net } := core_setCore_same ..

@[simp] theorem core_modMx_same (s : State) (n : Nat) (f : Matrix → Matrix) :
    (s.modMx n f).core n = { s.core n with mx := f (s.core n).mx } := core_setCore_same ..

@[simp] theorem core_modCache_same (s : State) (n : Nat) (f : Caches → Caches) :
    (s.modCache n f).core n = { s.core n with cache := f (s.core n).cache } := core_setCore_same ..

/-- A state with the same cores has the same threads. -/
theorem thread_congr {s u : State} (h : u.cores = s.cores) (n k : Nat) : u.thread n k = s.thread n k := by
  unfold State.thread State.core; rw [h]

/-- A state with the same cores has the same core. -/
theorem core_congr {s u : State} (h : u.cores = s.cores) (n : Nat) : u.core n = s.core n := by
  unfold State.core; rw [h]

/-! ### Threads -/

theorem thread_setThread_same (s : State) (n k : Nat) (t : Option Thread) (h : k < 8) :
    (s.setThread n k t).thread n k = t := by
  unfold State.setThread State.thread
  rw [core_modCore_same]
  simp [h]

theorem thread_setThread_ne (s : State) (n k m j : Nat) (t : Option Thread) (h : m ≠ n ∨ j ≠ k) :
    (s.setThread n k t).thread m j = s.thread m j := by
  unfold State.setThread State.thread
  by_cases hm : m = n
  · subst hm
    have hj : j ≠ k := h.resolve_left (by simp)
    rw [core_modCore_same]
    simp [Vector.getElem?_setIfInBounds_ne (Ne.symm hj)]
  · rw [core_modCore_ne _ _ _ _ hm]

/-- A slot that holds a thread is one of the eight. -/
theorem slot_lt_of_thread {s : State} {n k : Nat} {t : Thread} (h : s.thread n k = some t) : k < 8 := by
  unfold State.thread at h
  by_cases hk : k < 8
  · exact hk
  · rw [Vector.getElem?_eq_none (by omega)] at h; simp at h

theorem thread_modThread_same (s : State) (n k : Nat) (f : Thread → Thread) :
    (s.modThread n k f).thread n k = (s.thread n k).map f := by
  unfold State.modThread
  split
  · rename_i h; simp [h]
  · rename_i t h; rw [thread_setThread_same _ _ _ _ (slot_lt_of_thread h), h]; rfl

theorem thread_modThread_ne (s : State) (n k m j : Nat) (f : Thread → Thread) (h : m ≠ n ∨ j ≠ k) :
    (s.modThread n k f).thread m j = s.thread m j := by
  unfold State.modThread
  split
  · rfl
  · exact thread_setThread_ne _ _ _ _ _ _ h

theorem cth_modCth (s : State) (f : Thread → Thread) : (s.modCth f).cth = s.cth.map f := by
  unfold State.modCth State.cth
  rw [State.modThread_cur]
  exact thread_modThread_same ..

/-- A core's engine, network, matrix and recorder state are no part of its threads. -/
theorem core_modThread (s : State) (n k m : Nat) (f : Thread → Thread) :
    ((s.modThread n k f).core m).mx = (s.core m).mx ∧ ((s.modThread n k f).core m).eng = (s.core m).eng ∧
      ((s.modThread n k f).core m).net = (s.core m).net ∧ ((s.modThread n k f).core m).cache = (s.core m).cache ∧
      ((s.modThread n k f).core m).cellar = (s.core m).cellar ∧ ((s.modThread n k f).core m).rcd = (s.core m).rcd := by
  unfold State.modThread
  split
  · exact ⟨rfl, rfl, rfl, rfl, rfl, rfl⟩
  · unfold State.setThread
    by_cases hm : m = n
    · subst hm; rw [core_modCore_same]; exact ⟨rfl, rfl, rfl, rfl, rfl, rfl⟩
    · rw [core_modCore_ne _ _ _ _ hm]; exact ⟨rfl, rfl, rfl, rfl, rfl, rfl⟩

/-! ### Dies and functions -/

@[simp] theorem die_modDie_same (s : State) (d : BitVec 2) (f : Die → Die) : (s.modDie d f).die d = f (s.die d) := by
  simp [State.modDie, State.die]

theorem die_modDie_ne (s : State) (d e : BitVec 2) (f : Die → Die) (h : e ≠ d) : (s.modDie d f).die e = s.die e := by
  have : d.toNat ≠ e.toNat := fun h' => h (BitVec.eq_of_toNat_eq h'.symm)
  simp [State.modDie, State.die, Vector.getElem_set_ne, this]

@[simp] theorem fnRegs_modFn_same (s : State) (f : Fn) (g : FnRegs → FnRegs) : (s.modFn f g).fnRegs f = g (s.fnRegs f) := by
  have h : ((s.bar.fns.filter (fun e => decide (e.1 ≠ f))).find? (fun e => decide (e.1 = f))) = none := by
    rw [List.find?_eq_none]
    intro e he
    have := (List.mem_filter.1 he).2
    simpa using this
  unfold State.modFn
  simp only
  conv => lhs; unfold State.fnRegs
  simp only [List.find?_append, h]
  simp [State.fnRegs]

/-! ### Regions -/

theorem region_rid {s : State} {rid : BitVec 16} {r : Region} (h : s.region rid = some r) : r.rid = rid := by
  have := List.find?_some h; simpa using this

theorem region_mem {s : State} {rid : BitVec 16} {r : Region} (h : s.region rid = some r) : r ∈ s.regions :=
  List.mem_of_find?_eq_some h

/-! ### Free orders -/

/-- A free order keeps the entries. -/
theorem shuffle_perm {α : Type} (l : List α) : ∀ k, (shuffle l.length k l).Perm l := by
  suffices h : ∀ (n k : Nat) (l : List α), l.length = n → (shuffle n k l).Perm l from fun k => h _ k l rfl
  intro n
  induction n with
  | zero => intro k l h; simp [shuffle, List.length_eq_zero_iff.mp h]
  | succ n ih =>
    intro k l h
    have hlt : Config.pick k % l.length < l.length := Nat.mod_lt _ (by omega)
    simp only [shuffle, List.getElem?_eq_getElem hlt]
    have hl : (l.eraseIdx (Config.pick k % l.length)).length = n := by rw [List.length_eraseIdx_of_lt hlt]; omega
    refine (List.Perm.cons _ (ih _ _ hl)).trans ?_
    rw [List.eraseIdx_eq_take_drop_succ]
    refine List.perm_middle.symm.trans ?_
    rw [List.getElem_cons_drop hlt, List.take_append_drop]

end Sys2Proof.Machine
end

