-- ==== Sys2Proof/Laws/Dispatch.lean ====
section
/-! SUPPORT. The issue of a bundle and the schedule run the meanings that `exec` calls. -/

namespace Sys2Proof.Machine

/-- `exec` is the schedule's run of a step of the device, and the bundle's run of a syllable. -/
theorem run_eq_exec (i : Instr) (s : State) :
    (match eventOf i with | some e => runEvent e s | none => runSyllable i s) = exec i s := by
  cases i <;> rfl

/-- A scheduled step of the device is `exec` of its instruction. -/
theorem runEvent_eq_exec {i : Instr} {e : Event} (h : eventOf i = some e) (s : State) : runEvent e s = exec i s := by
  have := run_eq_exec i s
  rwa [h] at this

/-- A syllable of a bundle is `exec` of it. -/
theorem runSyllable_eq_exec {i : Instr} (h : eventOf i = none) (s : State) : runSyllable i s = exec i s := by
  have := run_eq_exec i s
  rwa [h] at this

/-- A syllable has a position in a bundle; a step of the device has none. -/
theorem posOf_isSome_eq (i : Instr) : (posOf i).isSome = (eventOf i).isNone := by
  cases i <;> rfl

end Sys2Proof.Machine
end

