-- ==== Sys2Proof/Laws/Issue.lean ====
section
/-! SUPPORT. The shared shapes of syllables under an issuing thread whose guard holds, and what giving a result, joining the order queue, a fetch of code and an answer do. -/

namespace Sys2Proof.Machine

open Safety

/-! ### Guards -/

/-- Under a true guard a guarded syllable does its effect. -/
theorem guarded_issues {s : State} {t : Thread} {g : Guard} (h : Issues s t g) (f : Thread → State) : guarded s g f = f t := by
  simp [guarded, h.1, h.2]

/-- Under a false guard it does nothing (R79). -/
theorem guarded_off {s : State} {t : Thread} {g : Guard} (h : s.cth = some t) (hg : guardHolds t.regs g = false)
    (f : Thread → State) : guarded s g f = s := by
  simp [guarded, h, hg]

/-- The slot of an issuing thread is one of the eight. -/
theorem slot_lt_of_issues {s : State} {t : Thread} {g : Guard} (h : Issues s t g) : s.cur.slot < 8 := slot_lt_of_thread h.1

/-! ### Shapes of scalar syllables -/

theorem scalarOp_issues {s : State} {t : Thread} {g : Guard} (h : Issues s t g) (d : Dest) (lat : Nat)
    (f : Thread → Word × BitVec 5) :
    scalarOp s d lat g f = pushFlight s d ((f t).1.setWidth 512) (BitVec.allOnes 512) lat (f t).2 :=
  guarded_issues h _

theorem intOp_issues {s : State} {t : Thread} {g : Guard} (h : Issues s t g) (d : Dest) (lat : Nat) (f : Thread → Word) :
    intOp s d lat g f = pushFlight s d ((f t).setWidth 512) (BitVec.allOnes 512) lat 0 :=
  guarded_issues h _

theorem intOp2_issues {s : State} {t : Thread} {g : Guard} (h : Issues s t g) (cl : Cl) (d a b : Reg) (lat : Nat)
    (f : Word → Word → Word) :
    intOp2 s cl d a b lat g f =
      pushFlight s (Cl.reg cl d) ((f (t.regs.getS cl a) (t.regs.getS cl b)).setWidth 512) (BitVec.allOnes 512) lat 0 :=
  intOp_issues h _ _ _

theorem intOpI_issues {s : State} {t : Thread} {g : Guard} (h : Issues s t g) (cl : Cl) (d a : Reg) (imm : BitVec 12) (lat : Nat)
    (f : Word → Word → Word) :
    intOpI s cl d a imm lat g f =
      pushFlight s (Cl.reg cl d) ((f (t.regs.getS cl a) (immOf s imm)).setWidth 512) (BitVec.allOnes 512) lat 0 :=
  intOp_issues h _ _ _

theorem intOp1_issues {s : State} {t : Thread} {g : Guard} (h : Issues s t g) (cl : Cl) (d a : Reg) (f : Word → Word) :
    intOp1 s cl d a g f = pushFlight s (Cl.reg cl d) ((f (t.regs.getS cl a)).setWidth 512) (BitVec.allOnes 512) 1 0 :=
  intOp_issues h _ _ _

theorem predOp_issues {s : State} {t : Thread} {g : Guard} (h : Issues s t g) (pd : BitVec 3) (lat : Nat)
    (f : Thread → Bool × BitVec 5) :
    predOp s pd lat g f = pushFlight s (.p pd) (if (f t).1 then 1 else 0) (BitVec.allOnes 512) lat (f t).2 :=
  guarded_issues h _

/-! ### Giving a result -/

/-- The state in which a push has reserved its port entry, and an identity is taken. -/
theorem reservePort_cur (s : State) (n k : Nat) (r : Reg) (e : PortSlot) : (reservePort s n k r e).cur = s.cur := by
  unfold reservePort; repeat' split
  all_goals simp

theorem reservePort_mem (s : State) (n k : Nat) (r : Reg) (e : PortSlot) : (reservePort s n k r e).mem = s.mem := by
  unfold reservePort; repeat' split
  all_goals simp

/-- Giving a result changes no memory. -/
@[simp] theorem pushFlight_mem (s : State) (d : Dest) (v m : Vec) (lat : Nat) (fl : BitVec 5) :
    (pushFlight s d v m lat fl).mem = s.mem := by
  unfold pushFlight
  simp only [State.modCth_mem]
  split
  · rw [reservePort_mem]; rfl
  · rfl

/-- Giving a result changes no issue context. -/
@[simp] theorem pushFlight_cur (s : State) (d : Dest) (v m : Vec) (lat : Nat) (fl : BitVec 5) :
    (pushFlight s d v m lat fl).cur = s.cur := by
  unfold pushFlight
  simp only [State.modCth_cur]
  split
  · rw [reservePort_cur]; rfl
  · rfl

/-! ### Fetching code -/

/-- A thread that did not change its code in its last turn fetches what stands in the scratchpad. -/
theorem codeBytes_plain (s : State) (n off : Nat) {t : Thread} (h : t.pipe.oldCode = none) :
    codeBytes s n t off = Memory.readBytes s.mem (keyL n off) 32 := by
  simp [codeBytes, h]

/-! ### Answers to other packages -/

/-- All that an answer can change: it leaves, or waits for a trained link. -/
theorem sendAnswer_frame (s : State) (p : Packet) (refused : Option (BitVec 16)) :
    sendAnswer s p refused = { s with outputs := (sendAnswer s p refused).outputs, answers := (sendAnswer s p refused).answers } := by
  unfold sendAnswer; split <;> rfl

/-! ### Joining the order queue -/

/-- An access that is appended stays the youngest entry when the finished fences are dropped. -/
theorem settleFrom_last (l : List QEntry) {e : QEntry} (h : e.access = true) :
    ∀ before, (settleFrom before (l ++ [e])).getLast? = some e := by
  induction l with
  | nil => intro before; simp [settleFrom, h]
  | cons a r ih => intro before; simp only [List.cons_append, settleFrom]; split <;> exact ih _

/-- An access joins the queue of the issuing thread as its youngest entry, under a new identity; nothing else of the thread changes. -/
theorem pushQ_cth {s : State} {t : Thread} (h : s.cth = some t) (sid : Nat) (rel acq loop : Bool) (kind : Nat → QKind)
    (ha : (QEntry.mk s.sched.nextId sid rel acq loop false false (kind s.sched.nextId)).access = true) :
    ∃ q, (pushQ s sid rel acq loop kind).cth = some { t with orderQ := q } ∧
      q.getLast? = some ⟨s.sched.nextId, sid, rel, acq, loop, false, false, kind s.sched.nextId⟩ := by
  refine ⟨_, ?_, settleFrom_last t.orderQ ha []⟩
  show (s.newId.2.modCth _).cth = _
  rw [cth_modCth, show s.newId.2.cth = some t from h]
  rfl

@[simp] theorem pushQ_mem (s : State) (sid : Nat) (rel acq loop : Bool) (kind : Nat → QKind) :
    (pushQ s sid rel acq loop kind).mem = s.mem := by
  show (s.newId.2.modCth _).mem = _
  simp

/-- An unsigned load of whole bytes gives them as a number (R356, R361). -/
theorem missValue_unsigned {m : Miss} (hs : m.signed = false) (hm : m.mask = BitVec.allOnes 512) (hb : m.base = 0) (bytes : List Byte) :
    missValue m bytes 0 = BitVec.ofNat 512 (leValue bytes) := by
  simp only [missValue, hs, hm, hb, Bool.false_and, Bool.false_eq_true, if_false, BitVec.and_allOnes]
  simp

end Sys2Proof.Machine
end

