-- ==== Sys2Proof/Laws/Memory.lean ====
section
/-! SUPPORT. The canonical form of memory is kept by every memory operation, and one byte reads back after a write. -/

namespace Sys2Proof.Machine

/-! ### One byte -/

/-- Every listed key of a memory lies above `k`. -/
def Memory.above (k : Nat) (m : List Host.Cell) : Prop := ∀ c ∈ m, k < c.1

theorem Memory.wf_nil : Memory.wf [] = true := rfl

theorem Memory.wf_cons (k : Nat) (v : Byte) (r : List Host.Cell) :
    Memory.wf ((k, v) :: r) = true ↔ v ≠ Memory.blank ∧ Memory.above k r ∧ Memory.wf r = true := by
  simp [Memory.wf, Memory.above, and_assoc]

theorem Memory.wf_filter (p : Host.Cell → Bool) (m : List Host.Cell) (h : Memory.wf m = true) :
    Memory.wf (m.filter p) = true := by
  induction m with
  | nil => rfl
  | cons c r ih =>
    obtain ⟨k, v⟩ := c
    rw [Memory.wf_cons] at h
    by_cases hp : p (k, v) = true
    · rw [List.filter_cons_of_pos hp, Memory.wf_cons]
      exact ⟨h.1, fun c hc => h.2.1 c (List.mem_filter.mp hc).1, ih h.2.2⟩
    · rw [List.filter_cons_of_neg hp]; exact ih h.2.2

theorem Memory.read_above {k a : Nat} {m : List Host.Cell} (h : Memory.above k m) (ha : a ≤ k) :
    Memory.read m a = Memory.blank := by
  induction m with
  | nil => rfl
  | cons c r ih =>
    obtain ⟨i, v⟩ := c
    have hi : k < i := h (i, v) (by simp)
    have : ¬ i = a := by omega
    simp only [Memory.read, this, if_false]
    exact ih (fun c hc => h c (by simp [hc]))

theorem Memory.above_write {k a : Nat} {m : List Host.Cell} {v : Byte} (h : Memory.above k m) (ha : k < a) :
    Memory.above k (Memory.write m a v) := by
  induction m with
  | nil => unfold Memory.write; split <;> simp [Memory.above, ha]
  | cons c r ih =>
    obtain ⟨i, w⟩ := c
    have hi : k < i := h (i, w) (by simp)
    have hr : Memory.above k r := fun c hc => h c (by simp [hc])
    have ih := ih hr
    have cons : ∀ (j : Nat) (x : Byte) (l : List Host.Cell), k < j → Memory.above k l → Memory.above k ((j, x) :: l) := by
      intro j x l hj hl c hc
      rcases List.mem_cons.1 hc with rfl | hc
      · exact hj
      · exact hl c hc
    unfold Memory.write
    repeat' split
    · exact cons _ _ _ hi hr
    · exact cons _ _ _ ha (cons _ _ _ hi hr)
    · exact hr
    · exact cons _ _ _ hi hr
    · exact cons _ _ _ hi ih

/-- A write keeps the canonical form. -/
theorem Memory.wf_write {m : List Host.Cell} (h : Memory.wf m = true) (a : Nat) (v : Byte) :
    Memory.wf (Memory.write m a v) = true := by
  induction m with
  | nil => unfold Memory.write; split <;> simp_all [Memory.wf]
  | cons c r ih =>
    obtain ⟨i, w⟩ := c
    rw [Memory.wf_cons] at h
    obtain ⟨hw, hi, hr⟩ := h
    unfold Memory.write
    repeat' split
    · exact (Memory.wf_cons ..).2 ⟨hw, hi, hr⟩
    · rename_i hlt hv
      refine (Memory.wf_cons ..).2 ⟨hv, ?_, (Memory.wf_cons ..).2 ⟨hw, hi, hr⟩⟩
      intro c hc
      rcases List.mem_cons.1 hc with rfl | hc
      · exact hlt
      · exact Nat.lt_trans hlt (hi c hc)
    · exact hr
    · rename_i hv; exact (Memory.wf_cons ..).2 ⟨hv, hi, hr⟩
    · rename_i h1 h2; exact (Memory.wf_cons ..).2 ⟨hw, Memory.above_write hi (by omega), ih hr⟩

/-- One byte reads back after a write, and every other byte reads as before. -/
theorem Memory.read_write {m : List Host.Cell} (h : Memory.wf m = true) (a : Nat) (v : Byte) (b : Nat) :
    Memory.read (Memory.write m a v) b = if b = a then v else Memory.read m b := by
  induction m with
  | nil =>
    unfold Memory.write
    by_cases hv : v = Memory.blank
    · simp [hv, Memory.read]
    · by_cases hb : b = a
      · simp [hv, hb, Memory.read]
      · simp [hv, hb, Memory.read, Ne.symm hb]
  | cons c r ih =>
    obtain ⟨i, w⟩ := c
    rw [Memory.wf_cons] at h
    obtain ⟨hw, hi, hr⟩ := h
    have ih := ih hr
    unfold Memory.write
    repeat' split
    · rename_i hlt hv hb
      subst hb
      have h1 : ¬ i = b := by omega
      simp only [Memory.read, h1, if_false, hv]
      exact Memory.read_above hi (by omega)
    · rfl
    · rename_i hlt hv hb; simp [Memory.read, hb]
    · rename_i hlt hv hb; simp [Memory.read, Ne.symm hb]
    · rename_i hb _ _; subst_vars; simp only [Memory.read_above hi (Nat.le_refl _)]
    · rename_i h1 h2 hv hb; subst_vars; simp [Memory.read, Ne.symm hb]
    · simp_all [Memory.read]
    · rename_i h1 h2 hv hb; subst_vars; simp [Memory.read, Ne.symm hb]
    · rename_i h1 h2 hb; subst_vars
      have : ¬ i = b := fun h => h2 h.symm
      simp only [Memory.read, this, if_false, ih, if_true]
    · rename_i h1 h2 hb
      simp only [Memory.read, ih, hb, if_false]

/-! ### Several bytes -/

theorem Memory.wf_writeBytes (l : List Byte) : ∀ {m : List Host.Cell} (_ : Memory.wf m = true) (a : Nat),
    Memory.wf (Memory.writeBytes m a l) = true := by
  induction l with
  | nil => exact fun h _ => h
  | cons v l ih => exact fun h a => ih (Memory.wf_write h a v) (a + 1)

/-- A read of i + j bytes is one of i bytes and one of j bytes behind it. -/
theorem Memory.readBytes_append (m : List Host.Cell) (i j : Nat) :
    ∀ a, Memory.readBytes m a (i + j) = Memory.readBytes m a i ++ Memory.readBytes m (a + i) j := by
  induction i with
  | zero => intro a; simp [Memory.readBytes]
  | succ i ih =>
    intro a
    rw [show i + 1 + j = i + j + 1 by omega]
    simp only [Memory.readBytes, List.cons_append, ih]
    rw [show a + 1 + i = a + (i + 1) by omega]

/-- Past the last listed byte every byte reads as one that nothing has written. -/
theorem Memory.read_past {m : List Host.Cell} {a : Nat} (h : m.all (fun c => decide (c.1 < a)) = true) : Memory.read m a = Memory.blank := by
  induction m with
  | nil => rfl
  | cons c r ih =>
    simp only [List.all_cons, Bool.and_eq_true, decide_eq_true_eq] at h
    obtain ⟨k, v⟩ := c
    simp only [Memory.read]
    rw [if_neg (by simp only at h; omega)]
    exact ih h.2

theorem Memory.readBytes_past {m : List Host.Cell} (n : Nat) :
    ∀ {a : Nat}, m.all (fun c => decide (c.1 < a)) = true → Memory.readBytes m a n = List.replicate n Memory.blank := by
  induction n with
  | zero => intro a _; rfl
  | succ n ih =>
    intro a h
    have h' : m.all (fun c => decide (c.1 < a + 1)) = true := by
      simp only [List.all_eq_true, decide_eq_true_eq] at h ⊢
      intro c hc; have := h c hc; omega
    simp only [Memory.readBytes, List.replicate_succ, Memory.read_past h, ih h']

theorem wf_writeMasked (l : List (Nat × Byte × Byte)) : ∀ {m : List Host.Cell} (_ : Memory.wf m = true),
    Memory.wf (writeMasked m l) = true := by
  induction l with
  | nil => exact fun h => h
  | cons b l ih => exact fun h => ih (Memory.wf_write h _ _)

theorem wf_flipWord {m : List Host.Cell} (h : Memory.wf m = true) (key : Nat) (mask : Word) :
    Memory.wf (flipWord m key mask) = true := by
  unfold flipWord
  generalize (leBytes mask.toNat 8).zipIdx = l
  induction l generalizing m with
  | nil => exact h
  | cons e l ih => exact ih (Memory.wf_write h _ _)

/-- With no injection armed a write is only itself. -/
theorem noteWrite_idle {s : State} (h : injectedWord s = none) (l : List (Nat × Byte × Byte)) : noteWrite s l = s := by
  simp [noteWrite, h]

/-- All that an injection can do to memory: leave it, or invert bits of its word that the write meets. -/
theorem noteWrite_mem (s : State) (l : List (Nat × Byte × Byte)) :
    (noteWrite s l).mem = s.mem ∨ ∃ key, injectedWord s = some key ∧ l.any (fun b => key ≤ b.1 && b.1 < key + 8) = true ∧
      (noteWrite s l).mem = flipWord s.mem key (injectionMask s.bar.errinj) := by
  unfold noteWrite
  split
  · exact .inl rfl
  · rename_i key hk
    split
    · exact .inl rfl
    · rename_i hm
      split
      · exact .inl rfl
      · exact .inr ⟨key, hk, by simpa using hm, rfl⟩

/-- While no error is armed nothing is injected. -/
theorem injectedWord_off {s : State} (h : s.bar.errinj.getLsbD 63 = false) : injectedWord s = none := by
  simp only [injectedWord, h]; rfl

/-- With no injection armed a read finds nothing. -/
theorem detectError_idle {s : State} (h : injectedWord s = none) (p : Place) (ctx : Nat) (own : Option Nat) (key len : Nat) :
    detectError s p ctx own key len = (none, s) := by
  unfold detectError; split <;> simp [meetsInjection, h]

/-- With no injection armed a read changes nothing. -/
theorem noteRead_idle {s : State} (h : injectedWord s = none) (p : Place) (ctx : Nat) (own : Option Nat) (key len : Nat) :
    noteRead s p ctx own key len = s := by
  unfold noteRead; rw [detectError_idle h]

/-- With no injection armed memory is read as it stands. -/
theorem soundMem_idle {s : State} (h : injectedWord s = none) : soundMem s = s.mem := by
  unfold soundMem; split <;> simp_all

theorem wf_noteWrite {s : State} (h : Memory.wf s.mem = true) (l : List (Nat × Byte × Byte)) :
    Memory.wf (noteWrite s l).mem = true := by
  obtain e | ⟨key, -, -, e⟩ := noteWrite_mem s l
  · rw [e]; exact h
  · rw [e]; exact wf_flipWord h _ _

theorem wf_zeroScratch {s : State} (h : Memory.wf s.mem = true) (n : Nat) : Memory.wf (zeroScratch s n).mem = true := by
  unfold zeroScratch
  split
  · split
    · exact wf_noteWrite (Memory.wf_filter _ _ h) _
    · exact Memory.wf_filter _ _ h
  · exact Memory.wf_filter _ _ h

theorem wf_storeRaw {s : State} (h : Memory.wf s.mem = true) (l : List (Nat × Byte × Byte)) :
    Memory.wf (storeRaw s l).mem = true := by
  unfold storeRaw
  exact wf_noteWrite (wf_writeMasked l h) l

/-- All that a notice to waits can change: the notes of the waits in the cores' slots. -/
theorem notifyWaits_frame (s : State) (hit : Nat → Wait → Option Bool) :
    notifyWaits s hit = { s with cores := (notifyWaits s hit).cores } := by
  simp only [notifyWaits]; split <;> rfl

@[simp] theorem notifyWaits_mem (s : State) (hit : Nat → Wait → Option Bool) : (notifyWaits s hit).mem = s.mem := by
  rw [notifyWaits_frame]

@[simp] theorem notifyStores_mem (s : State) (l : List (Nat × Byte × Byte)) : (notifyStores s l).mem = s.mem := by
  unfold notifyStores; split <;> simp

theorem wf_storeM {s : State} (h : Memory.wf s.mem = true) (n : Nat) (l : List (Nat × Byte × Byte)) :
    Memory.wf (storeM s n l).mem = true := by
  simp only [storeM, notifyStores_mem]
  refine wf_noteWrite ?_ l
  rw [State.modCache_mem]
  exact wf_writeMasked l h

theorem wf_storeDev {s : State} (h : Memory.wf s.mem = true) (l : List (Nat × Byte × Byte)) :
    Memory.wf (storeDev s l).mem = true := by
  simp only [storeDev, notifyStores_mem]; exact wf_storeRaw h l

end Sys2Proof.Machine
end

