-- ==== Sys2Proof/Tests/Slice0.lean ====
section
/-! SUPPORT. Tests: ill-formed terms that the check refuses, words of the spec's examples, single steps whose results the
spec states, and a witness for the hypotheses of every statement. -/

set_option Elab.async false

namespace Sys2Proof.Tests

open Sys2Proof.Machine Sys2Proof.Safety

/-- The guard that always holds. -/
abbrev g0 : Guard := ⟨0, false⟩

/-- No token. -/
abbrev k0 : Toks := ⟨0, 0, 0, 0⟩

/-! ### Well-formedness (R81, R102 to R113) -/

theorem test_wf_accepts : (Instr.slli .x 1 2 63 g0).wellFormed = true ∧ (Instr.slli .x 1 2 0x800 g0).wellFormed = true ∧
    (Instr.vadd .i8 1 24 2 g0).wellFormed = true ∧ (Instr.atom .cas true true true .x 2 1 0 g0).wellFormed = true := by decide

theorem test_wf_ports : (Instr.vadd .i8 1 26 2 g0).wellFormed = false ∧ (Instr.vadd .i8 24 1 2 g0).wellFormed = false ∧
    (Instr.vadd .i8 1 31 2 g0).wellFormed = false ∧ (Instr.vrng 24 1 2 g0).wellFormed = false ∧
    (Instr.vldg 24 1 0 0 g0).wellFormed = false ∧ (Instr.tld 24 1 0 g0).wellFormed = false ∧
    (Instr.tst 1 31 0 g0).wellFormed = false ∧ (Instr.mxrd 24 1 0 k0).wellFormed = false ∧
    (Instr.mxflg 24 1 k0).wellFormed = false ∧ (Instr.cpy 25 k0).wellFormed = false ∧
    (Instr.spawn 26 k0).wellFormed = false ∧ (Instr.send 25 1 k0).wellFormed = false := by decide

theorem test_wf_types : (Instr.slli .x 1 2 64 g0).wellFormed = false ∧ (Instr.vadd .f32 1 2 3 g0).wellFormed = false ∧
    (Instr.vabs .bf16 1 2 g0).wellFormed = false ∧ (Instr.vfadd .i32 1 2 3 g0).wellFormed = false ∧
    (Instr.vfrcp .e4m3 1 2 g0).wellFormed = false ∧ (Instr.vcmp .eq .e5m2 1 2 3 g0).wellFormed = false ∧
    (Instr.vcmp .ltu .f32 1 2 3 g0).wellFormed = false ∧ (Instr.vcmp .un .i8 1 2 3 g0).wellFormed = false ∧
    (Instr.vsel .e4m3 1 0 2 3 g0).wellFormed = false ∧ (Instr.vslide .e4m3 1 2 3 g0).wellFormed = false ∧
    (Instr.vbcast .e5m2 1 2 g0).wellFormed = false ∧ (Instr.vext .e5m2 1 2 3).wellFormed = false ∧
    (Instr.vcvt .f32 .f32 false 1 2 g0).wellFormed = false ∧ (Instr.vcvt .i8 .f32 true 1 2 g0).wellFormed = false ∧
    (Instr.vquant .bf16 0 1 2 3 g0).wellFormed = false ∧ (Instr.vdeq .bf16 true 1 2 g0).wellFormed = false ∧
    (Instr.vred .or .f32 1 2 g0).wellFormed = false ∧ (Instr.vred .sum .e4m3 1 2 g0).wellFormed = false := by decide

theorem test_wf_operands : (Instr.atom .cas false false true .x 3 1 0 g0).wellFormed = false ∧
    (Instr.atom .cas false false true .x 0 1 0 g0).wellFormed = false ∧
    (Instr.atom .add true false true .x 0 1 0 g0).wellFormed = false ∧ (Instr.vatom .xchg 2 1 0 g0).wellFormed = false ∧
    (Instr.vatom .add 3 1 0 g0).wellFormed = false ∧ (Instr.fenceJoin 0 g0).wellFormed = false ∧
    (Instr.fenceLoop 0 g0).wellFormed = false ∧ (Instr.waitk 0 g0).wellFormed = false ∧
    (Instr.plog .not 1 2 3 g0).wellFormed = false ∧ (Instr.mlog .not 1 2 3 g0).wellFormed = false ∧
    (Instr.rdc 1 5 g0).wellFormed = false ∧ (Instr.wrc 0x7F 1 g0).wellFormed = false ∧
    (Instr.mxldb 0 1 k0).wellFormed = false := by decide

theorem test_wf_places : (Instr.taskStart 3072 0).wellFormed = false ∧ (Instr.taskStart 0 8).wellFormed = false ∧
    (Instr.orderQueuePerform 3072 0 1).wellFormed = false ∧ (Instr.fatalDetect 0 8 1 0).wellFormed = false ∧
    (Instr.cimScrub 3072 0 0).wellFormed = false ∧ (Instr.atticSpill 3072).wellFormed = false ∧
    (Instr.cellarRecordWrite (.core 3072)).wellFormed = false ∧
      (Instr.freezeWaveArrival (.core 3072) 0).wellFormed = false := by decide

/-! ### Words of the spec's examples (R104 to R112, R323 to R447) -/

theorem test_decode_scalar :
    decode .x 0x04853010 = .ok (.add .x 4 5 6 g0) ∧
    decode .x 0x20210040 = .ok (.addi .x 1 1 4 g0) ∧
    decode .y 0x20C6FFF0 = .ok (.addi .y 6 6 (-1) g0) ∧
    decode .x 0x05095190 = .ok (.div .x 8 9 10 g0) ∧
    decode .x 0x050951C0 = .ok (.remu .x 8 9 10 g0) ∧
    decode .x 0x18853020 = .ok (.sel .x 4 2 5 6 g0) ∧
    decode .x 0x0D2200D0 = .ok (.fclass .x 9 2 g0) ∧
    decode .y 0x0CA21820 = .ok (.fsub .y 5 2 3 g0) ∧
    decode .x 0x0CC21850 = .ok (.ffms .x 6 2 3 g0) ∧
    decode .y 0x0CE800C0 = .ok (.frsq .y 7 8 g0) ∧
    decode .x 0x10442820 = .ok (.fcmp .lt .x 2 4 5 g0) ∧
    decode .x 0x34840030 = .ok (.srli .x 4 4 3 g0) ∧
    decode .x 0x508002A0 = .ok (.movi .x 4 42 g0) ∧
    decode .x 0x04640110 = .ok (.popc .x 3 4 g0) ∧
    decode .x 0x14A30000 = .ok (.xmov .x 5 3 g0) ∧
    decode .x 0x04640180 = .ok (.zextw .x 3 4 g0) :=
  ⟨rfl, rfl, rfl, rfl, rfl, rfl, rfl, rfl, rfl, rfl, rfl, rfl, rfl, rfl, rfl, rfl⟩

theorem test_decode_vector :
    decode .va 0x0C221A10 = .ok (.vadds .i32 1 2 3 g0) ∧
    decode .va 0x042218F0 = .ok (.vdot4 1 2 3 g0) ∧
    decode .va 0x08221B40 = .ok (.vffma .f32 1 2 3 g0) ∧
    decode .va 0x08220390 = .ok (.vfrcp .f32 1 2 g0) ∧
    decode .va 0x04221AA0 = .ok (.vshr .i32 1 2 3 g0) ∧
    decode .vb 0x04442B30 = .ok (.vcmp .lt .f32 2 4 5 g0) ∧
    decode .vb 0x08222230 = .ok (.vsel .i32 1 3 2 4 g0) ∧
    decode .vb 0x1C2203E0 = .ok (.vcvt .f32 .e4m3 true 1 2 g0) ∧
    decode .vb 0x24220310 = .ok (.vdeq .f32 true 1 2 g0) ∧
    decode .vb 0x18821B00 = .ok (.vext .f32 4 2 3) ∧
    decode .vb 0x20221B10 = .ok (.vquant .f32 1 1 2 3 g0) ∧
    decode .vb 0x28220310 = .ok (.vred .sum .f32 1 2 g0) ∧
    decode .vb 0x2CA44A00 = .ok (.vrng 5 4 9 g0) ∧
    decode .vb 0x39230000 = .ok (.mcnt 9 3) :=
  ⟨rfl, rfl, rfl, rfl, rfl, rfl, rfl, rfl, rfl, rfl, rfl, rfl, rfl, rfl⟩

theorem test_decode_l :
    decode .l 0x14E10000 = .ok (.ldw .x 7 1 0 0 g0) ∧
    decode .l 0x1D410010 = .ok (.ldd .x 10 1 0 1 g0) ∧
    decode .l 0x08642850 = .ok (.ldbu .y 3 4 2 5 g0) ∧
    decode .l 0x0CA607E0 = .ok (.ldh .x 5 6 0 (-2) g0) ∧
    decode .l 0x48A90DE0 = .ok (.ldg .w .y 5 9 0 (-2) g0) ∧
    decode .l 0x4C820600 = .ok (.stg .d .x 4 2 0 0 g0) ∧
    decode .l 0x58C30000 = .ok (.ldacq .x 6 3 0 0 g0) ∧
    decode .l 0x5CA30000 = .ok (.strel .x 5 3 0 0 g0) ∧
    decode .l 0x30640020 = .ok (.vld 3 4 0 2 g0) ∧
    decode .l 0x38A60070 = .ok (.vlds 5 6 0 7 g0) ∧
    decode .l 0x40220030 = .ok (.vgath 1 2 0 3 g0) ∧
    decode .l 0x50490010 = .ok (.vldg 2 9 0 1 g0) ∧
    decode .l 0x60832CE0 = .ok (.atom .cas true true false .y 4 3 2 g0) ∧
    decode .l 0x64820000 = .ok (.vatom .add 4 2 0 g0) :=
  ⟨rfl, rfl, rfl, rfl, rfl, rfl, rfl, rfl, rfl, rfl, rfl, rfl, rfl, rfl⟩

theorem test_decode_c :
    decode .c 0x04000030 = .ok (.br 3 g0) ∧
    decode .c 0x07FFFFF3 = .ok (.br (-1) ⟨1, true⟩) ∧
    decode .c 0x08000050 = .ok (.call 5 g0) ∧
    decode .c 0x0C1F0000 = .ok (.ret 31 g0) ∧
    decode .c 0x10090000 = .ok (.brx 9 g0) ∧
    decode .c 0x180000C0 = .ok (.wait 12 g0) ∧
    decode .c 0x20074000 = .ok (.waita 7 8 g0) ∧
    decode .c 0x24074000 = .ok (.waitb 7 8 g0) ∧
    decode .c 0x28050030 = .ok (.waitmb 3 5 g0) ∧
    decode .c 0x2C000020 = .ok (.waitk 1 g0) ∧
    decode .c 0x30070000 = .ok (.arrive 7 g0) ∧
    decode .c 0x34611010 = .ok (.plog .and 3 1 2 g0) ∧
    decode .c 0x38450050 = .ok (.mlog .not 2 5 0 g0) ∧
    decode .c 0x44050000 = .ok (.wrc 0 5 g0) ∧
    decode .c 0x48000050 = .ok (.trap 5 g0) ∧
    decode .c 0x4C000000 = .ok (.eret g0) ∧
    decode .c 0x50000000 = .ok (.exit g0) ∧
    decode .c 0x54050030 = .ok (.mark 5 3 g0) ∧
    decode .c 0x58A00000 = .ok (.time 5 g0) ∧
    decode .c 0x5C054800 = .ok (.seqadd 5 9 g0) ∧
    decode .c 0x60453000 = .ok (.seqwait 2 5 6 g0) :=
  ⟨rfl, rfl, rfl, rfl, rfl, rfl, rfl, rfl, rfl, rfl, rfl, rfl, rfl, rfl, rfl, rfl, rfl, rfl, rfl, rfl, rfl⟩

theorem test_decode_e :
    decode .e 0x05E40200 = .ok (.mxldb 15 4 ⟨1, 0, 0, 0⟩) ∧
    decode .e 0x08256400 = .ok (.mxrun true 5 6 ⟨2, 0, 0, 0⟩) ∧
    decode .e 0x0C878600 = .ok (.mxrd 4 7 8 ⟨3, 0, 0, 0⟩) ∧
    decode .e 0x10A70600 = .ok (.mxflg 5 7 ⟨3, 0, 0, 0⟩) ∧
    decode .e 0x14000200 = .ok (.mxclr false ⟨1, 0, 0, 0⟩) ∧
    decode .e 0x18030440 = .ok (.cpy 3 ⟨2, 1, 0, 0⟩) ∧
    decode .e 0x1C059600 = .ok (.send 5 9 ⟨3, 0, 0, 0⟩) ∧
    decode .e 0x20040000 = .ok (.snld 4 k0) ∧
    decode .e 0x24060000 = .ok (.spawn 6 k0) ∧
    decode .e 0x28456000 = .ok (.wmset 2 5 6 k0) :=
  ⟨rfl, rfl, rfl, rfl, rfl, rfl, rfl, rfl, rfl, rfl⟩

/-- Other positions and broken fields are refused by name (R95, R102, R104). -/
theorem test_decode_refuses : decode .x 0x00000001 = .error .opZero ∧ decode .e 0xFC000000 = .error .reservedOp ∧
    decode .x 0x04640910 = .error .unusedField ∧ decode .c 0x2C000000 = .error .operandRule ∧
    decode .va 0x04221B10 = .error .operandRule := ⟨rfl, rfl, rfl, rfl, rfl⟩

/-- The words of the table come back from the encoder (R104). -/
theorem test_encode : encode (.add .x 4 5 6 g0) = some (.x, 0x04853010) ∧ encode (.br (-1) ⟨1, true⟩) = some (.c, 0x07FFFFF3) ∧
    encode (.mxrun true 5 6 ⟨2, 0, 0, 0⟩) = some (.e, 0x08256400) ∧ encode (.vext .f32 4 2 3) = some (.vb, 0x18821B00) ∧
    encode (.atom .cas true true false .y 4 3 2 g0) = some (.l, 0x60832CE0) := ⟨rfl, rfl, rfl, rfl, rfl⟩

/-! ### Small states -/

/-- A fresh task of region 1, as a placement on core 0 leaves it. -/
def th : Thread := newThread 1 1 0 { parseTrec 0 with entry := 0x8000 } none 0 0 0 1 0 0

/-- A thread with some x registers. -/
def xs (l : List (Nat × Word)) (t : Thread) : Thread :=
  { t with regs := { t.regs with x := l.foldl (fun v e => v.setIfInBounds e.1 e.2) t.regs.x } }

/-- A live region with core 0 after reset, and a thread in its slot 0. -/
def on (t : Thread) : State :=
  { State.reset with
    cores := [(0, { Core.reset with slots := Core.reset.slots.set 0 (some t), owner := some 1 })]
    regions := [loneRegion State.reset], sched := { State.reset.sched with nextId := 2 } }

theorem on_cth (t : Thread) : (on t).cth = some t := rfl

theorem issues_on (t : Thread) : Issues (on t) t g0 := ⟨rfl, rfl⟩

/-! ### Witnesses for the hypotheses of the statements -/

theorem witness_issues : Issues (on th) th g0 ∧ (on th).cur.slot < 8 := ⟨⟨rfl, rfl⟩, by decide +kernel⟩

theorem witness_shift : shiftOf (on th) 63 < 64 ∧
    64 ≤ shiftOf { on th with cur := { Cursor.idle with lit := some 64 } } 0x800 := by decide +kernel

theorem witness_division : (0 : Word) = 0 ∧ (BitVec.intMin 64 = BitVec.intMin 64 ∧ (BitVec.allOnes 64 : Word) = BitVec.allOnes 64) ∧
    (1 : Word) ≠ 0 := by decide +kernel

theorem witness_pushed : (on th).cur.slot < 8 ∧ (on th).cth = some th ∧ ((0 : Nat) ≠ (on th).cur.core ∨ 1 ≠ (on th).cur.slot) :=
  ⟨by decide +kernel, rfl, by decide +kernel⟩

theorem witness_landing : (0 : Nat) < 8 ∧
    let t := { th with pipe := { th.pipe with flights := [⟨1, .x 5, 7, BitVec.allOnes 512, 1, 1⟩, ⟨2, .x 6, 8, BitVec.allOnes 512, 2, 0⟩] } }
    (on t).thread 0 0 = some t ∧ ∀ f ∈ t.pipe.flights, ∀ r, f.dest ≠ .port r :=
  ⟨by decide +kernel, rfl, by simp⟩

theorem witness_guard_off : (on th).cth = some th ∧ guardOf (.add .x 1 2 3 ⟨1, false⟩) = some ⟨1, false⟩ ∧
    guardHolds th.regs ⟨1, false⟩ = false ∧ posOf (.add .x 1 2 3 ⟨1, false⟩) ≠ some .va ∧
    posOf (.add .x 1 2 3 ⟨1, false⟩) ≠ some .vb ∧ privileged th (.add .x 1 2 3 ⟨1, false⟩) = false ∧
    guardOf (.slli .x 1 2 63 ⟨1, false⟩) = some ⟨1, false⟩ ∧ shiftOf (on th) 63 < 64 ∧
    guardOf (.vadd .i8 1 2 3 ⟨0, true⟩) = some ⟨0, true⟩ ∧ posOf (.vadd .i8 1 2 3 ⟨0, true⟩) = some .va ∧
    guardOf (.vmovi 1 0 ⟨0, true⟩) = some ⟨0, true⟩ ∧ posOf (.vmovi 1 0 ⟨0, true⟩) = some .vb := by
  refine ⟨rfl, ?_⟩; decide +kernel

theorem witness_nan : (fmtF32.decode 0x7F800001).isNan = true ∧ fmtBF16.decode 0x3F80 = .fin false 128 (-7) ∧
    0x3F80 < 2 * fmtBF16.signBit := by decide +kernel

theorem witness_finite : fmtF32.decode 0x3F800000 = .fin false (2 ^ 23) (-23) ∧ fmtF32.decode 0xBF800000 = .fin true (2 ^ 23) (-23) ∧
    fmtE5M2.decode 0x40 = .fin false 4 (-1) := by decide +kernel

theorem witness_values : fmtF32.decode 0xFF800000 = .inf true ∧ fmtE5M2.decode 0x7C = .inf false ∧ fmtF16.decode 0x8000 = .fin true 0 (-24) ∧
    0x7C < 2 * fmtE5M2.signBit ∧ fmtF32.decode 0x3FC00000 = .fin false (3 * 2 ^ 22) (-23) ∧ (-24 : Int) % 2 = 0 ∧
    2 ^ (fmtF32.fb + 2) ≤ 2 ^ 25 + 1 := by decide +kernel

theorem witness_ports : (on th).cth = some th ∧ portsReady (on th) th [1, 2] (some 3) = true ∧
    portsReady (on th) th [1] (some 3) = true ∧ portsReady (on th) th [] (some 3) = true ∧
    portsReady (on th) th [1, 2] none = true ∧ portsReady (on th) th [1, 2] (some 27) = true := by
  refine ⟨rfl, ?_⟩; decide +kernel

theorem witness_memory : Memory.wf [⟨3, 7⟩, ⟨9, 1⟩] = true := by decide +kernel

/-- Registers that address the last bytes below the context tails. -/
def thEnds : Thread := xs [(1, 0x77FFF), (2, 0x77FFE), (4, 0x77FFC), (8, 0x77FF8), (9, 0x77FC0), (10, 0x77FF0)] th

theorem witness_scratchpad_ends :
    ScratchpadAccess (on thEnds) (eaOf (on thEnds) thEnds 1 0 1) 1 1 ∧
      ScratchpadAccess (on thEnds) (eaOf (on thEnds) thEnds 2 0 2) 2 2 ∧
    ScratchpadAccess (on thEnds) (eaOf (on thEnds) thEnds 4 0 4) 4 4 ∧
      ScratchpadAccess (on thEnds) (eaOf (on thEnds) thEnds 8 0 8) 8 8 ∧
    ScratchpadAccess (on thEnds) (eaOf (on thEnds) thEnds 9 0 64) 64 4 ∧ ScratchpadAccess (on thEnds) (thEnds.regs.getX 10) 16 16 ∧
    Issues (on thEnds) thEnds g0 ∧ Good (on thEnds) ∧ releaseOpen (on thEnds) thEnds = true ∧ releasesDone thEnds = true ∧
      missFree (on thEnds).ccore = true ∧ thEnds.det = false := by
  refine ⟨?_, ?_, ?_, ?_, ?_, ?_, issues_on _, ?_, ?_⟩ <;> first | decide +kernel | (unfold ScratchpadAccess; decide +kernel) | (unfold Good; decide +kernel)

/-- The same thread with a release that is not performed. -/
def thReleasing : Thread := { thEnds with orderQ := [⟨1, 3, true, false, false, false, false, .storeM [] 0⟩] }

theorem witness_acquire_holds : Issues (on thReleasing) thReleasing g0 ∧ releasesDone thReleasing = false ∧
    ScratchpadAccess (on thReleasing) (eaOf (on thReleasing) thReleasing 8 0 8) 8 8 := by
  refine ⟨issues_on _, ?_⟩; unfold ScratchpadAccess; decide +kernel

theorem witness_access_checks : (1 : Word).toNat % 2 ≠ 0 ∧ 2 ^ 48 ≤ (0x1000000000000 : Word).toNat ∧
    0x80000 ≤ (0x80000 : Word).toNat ∧ (0x7FFFFFFFFFF8 : Word).toNat < 2 ^ 47 ∧ th.mode = 0 ∧
    (0x77FFC : Word).toNat + 8 ≤ 0x80000 ∧ 0x78000 < (0x77FFC : Word).toNat + 8 ∧
      (0x77FF8 : Word).toNat + 8 ≤ 0x78000 := by decide +kernel

/-- A cached translation of the page at 0x100000 of PASID 0 to the stack. -/
def page : TlbEntry := ⟨⟨0, 0x100000, 12, 0x3000, false, true, true, true⟩, true⟩

/-- A state with that page on core 0. -/
def paged (t : Thread) : State := (on t).modCache 0 (fun c => { c with tlb := [page] })

theorem issues_paged (t : Thread) : Issues (paged t) t g0 := ⟨rfl, rfl⟩

/-- A register that addresses the end of that page. -/
def thPage : Thread := xs [(1, 0x100FC0)] th

/-- An access form passes its address with its resources free, in slot 0 of core 0. -/
abbrev Passes (s : State) (t : Thread) (syl : Nat) (f : Shape) (e : Word) (var : Bool) (sp : Spot) : Prop :=
  spotOf s t s.cur.core s.cur.slot f e = sp ∧ blocked s t syl f e var = false

/-- The shapes of the forms: with a page of class M alone, acquires, releases, class-G loads and stores, atomics. -/
abbrev onPage (n : Nat) (p : Perm) : Shape := ⟨n, n, false, .no, some p, none⟩
abbrev acquiring : Shape := ⟨8, 8, true, .cluster, some .r, none⟩
abbrev releasing : Shape := ⟨8, 8, true, .tenant, some .w, none⟩
abbrev away (n align : Nat) (gr : GRule) : Shape := ⟨n, align, true, gr, none, none⟩
abbrev atomic (n : Nat) (gr : GRule) (cap : Bool) : Shape := ⟨n, n, true, gr, some .rw, some cap⟩

/-- The line of that page's end in core 0's read cache. -/
def cached (t : Thread) : State := (paged t).modCache 0 (fun c => { c with rc := [⟨2 ^ 40 + 0x3FC0, List.replicate 64 7⟩] })

theorem witness_class_m : Issues (paged thPage) thPage g0 ∧ thPage.inDomain = false ∧
    (∀ n ∈ [1, 8, 64], Passes (paged thPage) thPage sylL (onPage n .w) 0x100FC0 false (.gen (2 ^ 40 + 0x3FC0)) ∧
      Passes (paged thPage) thPage sylL (onPage n .r) 0x100FC0 true (.gen (2 ^ 40 + 0x3FC0)) ∧
      Passes (cached thPage) thPage sylL (onPage n .r) 0x100FC0 true (.gen (2 ^ 40 + 0x3FC0)) ∧
      Passes (on thPage) thPage sylL (onPage n .w) 0x100FC0 false .walk) ∧
    Passes (paged thPage) thPage sylL acquiring 0x100FC0 true (.gen (2 ^ 40 + 0x3FC0)) ∧
    Passes (paged thPage) thPage sylL releasing 0x100FC0 false (.gen (2 ^ 40 + 0x3FC0)) ∧
    Passes (on thPage) thPage sylL acquiring 0x100FC0 true .walk ∧ Passes (on thPage) thPage sylL releasing 0x100FC0 false .walk ∧
    eaOf (paged thPage) thPage 1 0 64 = 0x100FC0 ∧ eaOf (paged thPage) thPage 1 0 8 = 0x100FC0 ∧
    cachedLine (paged thPage).ccore (2 ^ 40 + 0x3FC0) = none ∧
    (cachedLine (cached thPage).ccore (2 ^ 40 + 0x3FC0)).isSome = true ∧ poisoned (cached thPage) (2 ^ 40 + 0x3FC0) = false ∧
    (cached thPage).ccore.net.misses = [] ∧ thPage.orderQ = [] := by
  refine ⟨issues_paged _, ?_⟩; decide +kernel

/-- A member of a timed domain, in user mode. -/
def thTimed : Thread := { th with ctl := { th.ctl with ths := 4 } }

theorem witness_class_m_in_domain : Issues (on thTimed) thTimed g0 ∧ thTimed.inDomain = true := ⟨issues_on _, by decide +kernel⟩

/-- A region with cores 0 and 1, in a package that has its SELF peer entry. -/
def pair (t : Thread) : State :=
  { on t with
    regions := [{ loneRegion State.reset with cores := [0, 1] }]
    bar := { Bar.reset with peers := [(0, 0xC000000000000000)] } }

/-- A member of a gang of four, with the class-G address of byte 0x100 of core 1 in a register. -/
def thAway : Thread := { xs [(1, 0x800000800100)] th with task := { th.task with size := 4 } }

theorem issues_pair (t : Thread) : Issues (pair t) t g0 := ⟨rfl, rfl⟩

/-- A deterministic thread. -/
def thDet : Thread := { thEnds with ctl := { th.ctl with ths := 8 } }

theorem witness_class_g : Issues (pair thAway) thAway g0 ∧ (∀ n ∈ [1, 2, 4, 8], eaOf (pair thAway) thAway 1 0 n = 0x800000800100 ∧
      Passes (pair thAway) thAway sylL (away n n .cluster) 0x800000800100 true (.core 1 0x100 none) ∧
      Passes (pair thAway) thAway sylL (away n n .tenant) 0x800000800100 false (.core 1 0x100 none)) ∧
    Passes (pair thAway) thAway sylL (away 64 4 .tenant) (eaOf (pair thAway) thAway 1 0 64) false (.core 1 0x100 none) ∧
    Passes (pair thAway) thAway sylL acquiring 0x800000800100 true (.core 1 0x100 none) ∧
    Passes (pair thAway) thAway sylL releasing 0x800000800100 false (.core 1 0x100 none) ∧
    Passes (pair thAway) thAway sylC (away 16 16 .tenant) (thAway.regs.getX 1) false (.core 1 0x100 none) := by
  refine ⟨issues_pair _, ?_⟩; decide +kernel

theorem witness_atomics : (∀ n ∈ [4, 8], ∀ var ∈ [false, true],
      Passes (pair thAway) thAway sylL (atomic n .cluster var) (thAway.regs.getX 1) var (.core 1 0x100 none) ∧
      Passes (paged thPage) thPage sylL (atomic n .cluster var) (thPage.regs.getX 1) var (.gen (2 ^ 40 + 0x3FC0)) ∧
      Passes (on thDet) thDet sylL (atomic n .cluster true) (thDet.regs.getX 8) true (.loc 0x77FF8)) ∧
    thDet.det = true ∧ localPending (on thDet) thDet = false ∧ releaseOpen (on thDet) thDet = true ∧ releasesDone thDet = true ∧
    (∀ i, i < 16 → thAway.regs.getX 1 + BitVec.ofNat 64 (laneOf 32 (thAway.regs.getV 3) i) = 0x800000800100 ∧
      thPage.regs.getX 1 + BitVec.ofNat 64 (laneOf 32 (thPage.regs.getV 3) i) = 0x100FC0) ∧
    Passes (pair thAway) thAway sylL (atomic 4 .tenant true) 0x800000800100 false (.core 1 0x100 none) ∧
    Passes (paged thPage) thPage sylL (atomic 4 .tenant true) 0x100FC0 false (.gen (2 ^ 40 + 0x3FC0)) := by decide +kernel

theorem witness_queue : (on th).cur.slot < 8 ∧ (on th).cth = some th ∧
    (∀ id, (QEntry.mk id 3 false false false false false (.loadM 1)).access = true) ∧
    (QEntry.mk 1 3 false false false false false (.fence false 8)).kind = .fence false 8 ∧
    (8 : BitVec 16).getLsbD 3 = true := ⟨by decide +kernel, rfl, fun _ => rfl, rfl, by decide +kernel⟩

/-- A thread with a loop-back store in its order queue. -/
def thLoop (perf : Bool) : Thread :=
  { th with orderQ := [⟨1, 3, false, false, true, true, perf, .remote (.store []) 0 none 0⟩] }

theorem witness_fence_loop :
    (∀ e ∈ (thLoop true).orderQ, (e.loop || e.isLocal) = true → (8 : BitVec 16).getLsbD e.sid = true → e.perf = true) ∧
    (∃ e ∈ (thLoop false).orderQ, (e.loop || e.isLocal) = true ∧ (8 : BitVec 16).getLsbD e.sid = true ∧ e.perf = false) := by decide +kernel

/-- Registers for a strided access that ends at the context tails, and for branches. -/
def thLanes : Thread := xs [(1, 0x77FC0), (2, 4), (3, 0x8000), (4, 0x8001)] th

theorem witness_lanes : Issues (on thLanes) thLanes g0 ∧ (on thLanes).cur.slot < 8 ∧ (on thLanes).bar.errinj.getLsbD 63 = false ∧
    (thLanes.regs.getX 2).toNat % 4 = 0 ∧ localPending (on thLanes) thLanes = false ∧ Good (on thLanes) := by
  refine ⟨issues_on _, ?_⟩; unfold Good; decide +kernel

theorem witness_branch_targets : (thLanes.regs.getX 3).toNat % 32 = 0 ∧ (thLanes.regs.getX 4).toNat % 32 ≠ 0 := by decide +kernel

/-- A thread in a handler, and one with a TRAP reported. -/
def thHandler : Thread := { th with ctl := { th.ctl with ths := 1 } }
def thReported : Thread := { thTimed with reports := [.trap 5] }

theorem witness_trap : th.mode = 0 ∧ th.timed = false ∧ thTimed.mode = 0 ∧ thTimed.timed = true ∧ trapPending thTimed = false ∧
    trapPending thReported = true ∧ thReported.timed = true ∧ thHandler.mode ≠ 0 := by decide +kernel

/-- A state whose region has a trap handler. -/
def handled (t : Thread) : State := { on t with regions := [{ loneRegion State.reset with hvec := 0x9000 }] }

/-- A handler thread that is to report a TRAP. -/
def thNested : Thread := { thHandler with reports := [.handlerTrap 5] }

theorem witness_handler_trap : (on thNested).thread 0 0 = some thNested ∧ thNested.mode ≠ 0 ∧
    thNested.reports.find? (fun x => match x with | .handlerTrap _ => true | _ => false) = some (.handlerTrap 5) ∧
    (on thNested).frozenFor thNested = false ∧ mayReport (on thNested) 0 thNested = true ∧
    (on thNested).region thNested.task.rid = some (loneRegion State.reset) ∧ ((on thNested).core 0).cellar.frozen = false := by
  refine ⟨rfl, ?_⟩; decide +kernel

theorem witness_trap_entry : (handled th).thread 0 0 = some th ∧
    (handled th).region th.task.rid = some { loneRegion State.reset with hvec := 0x9000 } ∧
    isFatal (handled th) th 0x0001 = false ∧ isFatal (handled thTimed) thTimed cPREEMPT = false ∧ Good (handled th) ∧
    (handled th).bar.errinj.getLsbD 63 = false := by
  refine ⟨rfl, ?_⟩; unfold Good; decide +kernel

/-- A handler with a result in flight. -/
def thInFlight : Thread := { thHandler with pipe := { thHandler.pipe with flights := [⟨1, .x 5, 7, allBits, 1, 0⟩] } }

theorem witness_eret_held : let s := { on thInFlight with cur := { Cursor.idle with first := 2 } }
    Issues s thInFlight g0 ∧ thInFlight.mode ≠ 0 ∧ ∃ f ∈ thInFlight.pipe.flights, f.id < s.cur.first :=
  ⟨⟨rfl, rfl⟩, by decide +kernel⟩

theorem witness_eret_waits : let s := { on thInFlight with cur := { Cursor.idle with first := 1 } }
    Issues s thInFlight g0 ∧ thInFlight.pipe.flights ≠ [] ∧ ∀ f ∈ thInFlight.pipe.flights, s.cur.first ≤ f.id :=
  ⟨⟨rfl, rfl⟩, by decide +kernel⟩

/-- A result of 19 turns for v23, and a context tail that holds it and a wait, whose kind, field and operand stand in WSTATE. -/
def lifted : Flight := ⟨1, .v 23, 7, allBits, 19, 1⟩
def savedTail (c : Nat × Nat × Nat) : List Host.Cell :=
  [(0x78880, c.1), (0x78881, c.2.1), (0x78888, c.2.2), (0x78900, 7), (0x78940, 1), (0x78941, 2), (0x78942, 23), (0x78943, 19), (0x78944, 1)].filterMap
    (fun e : Nat × Nat => if e.2 = 0 then none else some ⟨e.1, BitVec.ofNat 8 e.2⟩)
def savedHandler : Thread := { thHandler with pipe := { thHandler.pipe with lifted := [lifted] } }

/-- Kinds, fields and operands of the saved waits. -/
def waitWords : List (Nat × Nat × Nat) := [(0, 0, 0), (1, 5, 0), (2, 1, 9), (3, 0, 9), (4, 0, 9), (5, 63, 9), (6, 3, 0), (7, 1, 9)]

theorem witness_eret_resumes : ∀ c ∈ waitWords, let s := { on savedHandler with mem := savedTail c }
    savedHandler.pipe.stallLeft = 0 ∧ Good s ∧ 1 ≤ lifted.rem ∧ lifted.rem ≤ 19 ∧ lifted.dest = .v 23 ∧ s.gtime = 0 ∧
    Memory.readLE s.mem 0x78880 8 = c.1 + 256 * c.2.1 ∧
    Memory.readLE s.mem 0x78888 8 = c.2.2 ∧ Memory.readLE s.mem 0x78890 8 = 0 := by
  unfold Good; decide +kernel

theorem witness_eret_table : ∀ c ∈ waitWords,
    Memory.readBytes (savedTail c) 0x78900 1280 = tableBytes [(lifted, lifted.val)] := by
  intro c hc
  have first : ∀ c ∈ waitWords, Memory.readBytes (savedTail c) 0x78900 80 = tableEntry (lifted, lifted.val) := by decide +kernel
  have rest : ∀ c ∈ waitWords, (savedTail c).all (fun x => decide (x.1 < 0x78900 + 80)) = true := by decide +kernel
  rw [show 1280 = 80 + 1200 from rfl, Memory.readBytes_append, first c hc, Memory.readBytes_past 1200 (rest c hc)]
  show _ = List.flatten [tableEntry (lifted, lifted.val)] ++ List.replicate 1200 0
  rw [List.flatten_singleton]; rfl

theorem witness_eret : Issues (on thHandler) thHandler g0 ∧ thHandler.mode ≠ 0 ∧ thHandler.pipe.flights = [] ∧
    thHandler.pipe.waitLeft = 0 ∧ Good (on thHandler) ∧ (on thHandler).bar.errinj.getLsbD 63 = false ∧
    thHandler.life.atBar = false ∧ thHandler.life.halted = false ∧
    (∀ i, i < 16 → Memory.read (on thHandler).mem (0x78000 + 0x900 + 80 * i + 64) = 0) ∧
    Memory.readLE (on thHandler).mem (0x78000 + 0x880) 8 = 0 := by
  refine ⟨issues_on _, ?_⟩; unfold Good; decide +kernel

/-- A member of a gang of four, before and after its arrival, and after its GBAR. -/
def thGang (i : Nat) (w : Wait) (done : Bool) : Thread :=
  { th with tid := i + 1, task := { th.task with member := i, size := 4 }, pipe := { th.pipe with wait := w }
            life := { th.life with gbarDone := done } }

/-- A core with a thread in slot 0. -/
def coreOf (t : Thread) : Core := { Core.reset with slots := Core.reset.slots.set 0 (some t), owner := some 1 }

/-- A gang of four whose member 0 is `t` and whose other members wait or run. -/
def gang (t : Thread) (w : Wait) (done : Bool) : State :=
  { on t with cores := [(0, coreOf t), (1, coreOf (thGang 1 w done)), (2, coreOf (thGang 2 w done)), (3, coreOf (thGang 3 w done))] }

/-- A thread whose bundle has reserved a place of its QNO. -/
def thPushes : Thread := { th with qno := [⟨1, 1, none⟩] }

theorem witness_exit : Issues (on thPushes) thPushes g0 ∧ thPushes.timed = false ∧ thPushes.task.size ≤ 1 ∧
    (∀ f ∈ thPushes.pipe.flights, ∀ r, f.dest ≠ .port r) ∧ thPushes.qno ≠ [] ∧
    (∀ e ∈ thPushes.qno, (on thPushes).cur.first ≤ e.id) ∧
    (thGang 0 .none true).life.gbarDone = true ∧
    (gangMates (gang (thGang 0 .none true) .none true) 0 0 (thGang 0 .none true)).any atBarrier = false ∧
    1 < (thGang 0 .none false).task.size ∧ (thGang 0 .none false).life.gbarDone = false :=
  ⟨issues_on _, by decide +kernel, by decide +kernel, (by intro f hf; cases hf), by decide +kernel⟩

theorem witness_exit_counter : (on thPushes).region 1 = some (loneRegion State.reset) ∧ (loneRegion State.reset).exitc = 0xFFFFF ∧
    ({ on thPushes with regions := [{ loneRegion State.reset with exitc := 3 }] } : State).region 1 =
      some { loneRegion State.reset with exitc := 3 } ∧ (on thPushes).bar.errinj.getLsbD 63 = false := by decide +kernel

theorem witness_gbar : (thGang 0 .none false).mode = 0 ∧
    (∀ i, i < 4 → i ≠ 0 → ∃ m, (gang (thGang 0 .none false) .gbar false).thread (0 + i) 0 = some m ∧ atBarrier m = true) ∧
    (gang (thGang 0 .gbar false) .gbar false).thread 0 0 = some (thGang 0 .gbar false) ∧
    (thGang 0 .gbar false :: gangMates (gang (thGang 0 .gbar false) .gbar false) 0 0 (thGang 0 .gbar false)).length = 4 ∧
    (thGang 0 .gbar false :: gangMates (gang (thGang 0 .gbar false) .gbar false) 0 0 (thGang 0 .gbar false)).all atBarrier = true := by
  refine ⟨by decide +kernel, ?_, rfl, by decide +kernel, by decide +kernel⟩
  intro i h h0
  obtain rfl | rfl | rfl : i = 1 ∨ i = 2 ∨ i = 3 := by omega
  · exact ⟨thGang 1 .gbar false, rfl, by decide +kernel⟩
  · exact ⟨thGang 2 .gbar false, rfl, by decide +kernel⟩
  · exact ⟨thGang 3 .gbar false, rfl, by decide +kernel⟩

/-- A barrier object at 0x77FF0 that expects two arrivals. -/
def expects : State := { on thEnds with mem := [⟨0x77FF0, 2⟩] }

theorem witness_arrive : Issues expects thEnds g0 ∧ Good expects ∧ ScratchpadAccess expects (thEnds.regs.getX 10) 16 16 ∧
    Memory.readLE expects.mem 0x77FF4 4 + 1 < Memory.readLE expects.mem 0x77FF0 4 ∧
    Memory.readLE (on thEnds).mem 0x77FF0 4 ≤ Memory.readLE (on thEnds).mem 0x77FF4 4 + 1 := by
  refine ⟨⟨rfl, rfl⟩, ?_⟩; unfold Good ScratchpadAccess; decide +kernel

/-- A register with an index outside the pool. -/
def thIndex : Thread := xs [(1, 1)] th

theorem witness_counter : (poolOf (paged thIndex) 1).2 ≤ (thIndex.regs.getX 1).toNat ∧
    (th.regs.getX 0).toNat < (poolOf (paged th) 1).2 ∧ (th.regs.getX 0).toNat < 2 ^ 20 ∧
    spotOf (paged th) th 0 0 ⟨8, 8, false, .no, some .rw, none⟩ (counterAddr (paged th) 1 (th.regs.getX 0)) = .gen (2 ^ 40 + 0x3000) ∧
    classOf (counterAddr (paged th) 1 (th.regs.getX 0)) = .m ∧ queueFull (paged th) th 1 = false ∧
    spotM (paged th) 0 (pasidOf (paged th) 1) .r none (counterAddr (paged th) 1 (th.regs.getX 0)) = .gen (2 ^ 40 + 0x3000) := by
  decide +kernel

theorem witness_waits : Issues (on thEnds) thEnds g0 ∧ (thEnds.regs.getX 8).toNat % 8 = 0 ∧
  (thEnds.regs.getX 8).toNat + 8 ≤ 0x78000 ∧
    (thEnds.regs.getX 10).toNat % 16 = 0 ∧ (thEnds.regs.getX 10).toNat + 16 ≤ 0x78000 ∧ releasesDone thEnds = true :=
  ⟨issues_on _, by decide +kernel⟩

theorem witness_control : ctlReadable th.mode 0 = true ∧ ctlReadable th.mode 4 = false ∧ ctlWritable th.mode 1 = false ∧
    ctlWritable th.mode 0x13F = true ∧ ctlReadable thHandler.mode 4 = true ∧ mxcfgOk (on th) 0 0x220 = true ∧
    mxcfgOk (on th) 0 0 = false ∧ stepsRunning (on th).ccore.eng = false ∧ (on th).ccore.net.landed = [] := by decide +kernel

/-- A tensor entry of 16 words in one tile, owned by region 1, and a state whose layout unit holds it. -/
def entry5 : Vec := BitVec.ofNat 512 (2 + 2 ^ 8 + 2 ^ 16 + 16 * 2 ^ 32 + 2 ^ 48 + 2 ^ 64 + 2 ^ 80 + 4 * 2 ^ 96 + 2 ^ 112 + 2 ^ 148 + 2 ^ 256)
def tensored (t : Thread) : State :=
  { (on t).modCache 0 (fun c => { c with held := [⟨5, 1, entry5, some [0x8000000000040000], true⟩] }) with
    regions := [{ loneRegion State.reset with tcount := 64 }] }

/-- Registers with tile 0 and tile 1 of entry 5. -/
def thTile : Thread := xs [(2, 5), (4, 5), (5, 1)] th

theorem witness_tile : Issues (tensored thTile) thTile g0 ∧ findEntry (tensored th) 0 1 64 = none ∧
    findEntry (tensored thTile) 0 1 5 = some (parseTensor entry5, some [0x8000000000040000]) ∧ thTile.inDomain = false ∧
    findTile (tensored thTile) 0 1 5 (parseTensor entry5) (some [0x8000000000040000]) (tileCoords (thTile.regs.getX 3)) = .at' 0x40000 0 ∧
    findTile (tensored thTile) 0 1 5 (parseTensor entry5) (some [0x8000000000040000]) (tileCoords (thTile.regs.getX 5)) = .outside ∧
    (parseTensor entry5).fmt ≠ 8 ∧ (parseTensor entry5).ro = false ∧ ScratchpadAccess (tensored thTile) 0x40000 64 64 ∧
    Good (tensored thTile) := by
  refine ⟨⟨rfl, rfl⟩, ?_⟩; unfold ScratchpadAccess Good; decide +kernel

/-- Operands of engine syllables, with token 1 free or pending. -/
def thEngine : Thread := xs [(1, 1), (2, 65535), (3, 0), (4, 65536), (5, 0x1FF), (6, 0x3F), (7, 64)] th
def thPending (timed : Bool) : Thread :=
  { th with tok := th.tok.set 1 .pending, ctl := { th.ctl with ths := if timed then 4 else 0 } }

theorem witness_engine : (on thEngine).cth = some thEngine ∧ tokOf thEngine 1 ≠ .pending ∧ thEngine.mode = 0 ∧
    engineFull (on thEngine).ccore.eng = false ∧ 1 ≤ (thEngine.regs.getX 1).toNat ∧ (thEngine.regs.getX 2).toNat ≤ 65535 ∧
    (thEngine.regs.getX 3).toNat = 0 ∧ 65535 < (thEngine.regs.getX 4).toNat ∧ thEngine.inDomain = false ∧
    (thEngine.regs.getX 5).toNat < 2 ^ 9 ∧ (thEngine.regs.getX 6).toNat < 2 ^ 6 ∧ thHandler.mode ≠ 0 ∧
    (thPending false).tok[(1 : Nat)]? = some .pending ∧ (thPending false).timed = false ∧ (thPending true).timed = true ∧
    wmsetIll ((thPending true).regs.getX 1) ((thPending true).regs.getX ((2 : BitVec 4).setWidth 5)) = none :=
  ⟨rfl, by decide +kernel⟩

/-- A copy command of 64 bytes from the scratchpad to 0x100000, and a record of a task at 0x8000 without readiness pairs. -/
def copyCmd : Vec := BitVec.ofNat 512 (2 + 64 * 2 ^ 32 + 2 ^ 148 + 2 ^ 256)
def record : Vec := BitVec.ofNat 512 (0x8000 + 0xFFFFF * (2 ^ 256 + 2 ^ 320 + 2 ^ 384 + 2 ^ 448))

/-- A thread with a copy command in v1, a record in v2, and SEND and WMSET operands. -/
def thJobs : Thread :=
  { xs [(1, 0x40), (2, 0x78000)] th with regs := { (xs [(1, 0x40), (2, 0x78000)] th).regs with v := (th.regs.v.set 1 copyCmd).set 2 record } }

theorem witness_jobs : (on thJobs).cth = some thJobs ∧ portsReady (on thJobs) thJobs [1] none = true ∧
    tokOf thJobs 0 ≠ .pending ∧ copyIll (vecOf (popPort (on thJobs) 1) thJobs 1) = none ∧ freeTags (on thJobs).ccore ≠ [] ∧
    copyAlign (parseCopy copyCmd) = none ∧ copyPriv (on thJobs) thJobs 0 0 (parseCopy copyCmd) = none ∧
    (thJobs.regs.getX 1).toNat % 64 = 0 ∧ (thJobs.regs.getX 2).toNat % 64 = 0 ∧
      (thJobs.regs.getX 1).toNat ≤ (thJobs.regs.getX 2).toNat ∧
    (thJobs.regs.getX 2).toNat ≤ 0x78000 ∧
    sendIll (on thJobs) thJobs 0 (.send 1 0 k0) (thJobs.regs.getX 0) = none ∧
    (∀ ready, sendTrap (on thJobs) thJobs (thJobs.regs.getX 0) ready = none) ∧
    sendRoute (on thJobs) 1 (thJobs.regs.getX 0) = some (0, none) ∧ windowOpen (on thJobs) 0 0 none = true ∧
    spawnCheck (on thJobs) 1 0 (parseTrec (vecOf (popPort (on thJobs) 2) thJobs 2)) = none ∧ dispatchFull (on thJobs) 0 = false ∧
    recordDieOf (loneRegion State.reset) (parseTrec record) (some 0) = 0 :=
  ⟨rfl, by decide +kernel⟩

/-- A state of a timed domain whose router is unbound. -/
def timedRegion (t : Thread) : State :=
  { on t with regions := [{ loneRegion State.reset with timed := true, tslots := 0x7F }], domains := [⟨1, 0, 0, 16, false, none, none, 0, 0⟩] }

theorem witness_snld : (timedRegion thTimed).cth = some thTimed ∧
    snldTrap (timedRegion thTimed) thTimed (.snld 0 k0) (thTimed.regs.getX 0) = none := ⟨rfl, by decide +kernel⟩

theorem witness_lane_words : ((List.range 16).map (fun i => (0x77FC0 : Word) + BitVec.ofNat 64 i * 4)).all
    (fun e => decide (e.toNat % 4 = 0 ∧ e.toNat + 4 ≤ 0x78000)) = true ∧ thLanes.regs.getX 1 = 0x77FC0 ∧
      thLanes.regs.getX 2 = 4 := by
  decide +kernel

theorem witness_lane_marks (e : Word) : watermarked (on thLanes).ccore e.toNat 4 = false := rfl

theorem witness_lane_banks : ((List.range 16).map (fun i => 4 * i)).length = 16 ∧
    (∀ o ∈ (List.range 16).map (fun i => 4 * i), o % 4 = 0 ∧ o < 0x80000) ∧
    (((List.range 16).map (fun i => 4 * i)).map (fun o => o / 4 % 16)).Nodup := by decide +kernel

theorem witness_misaligned_lane : (thLanes.regs.getX 4).toNat % 4 ≠ 0 ∧
    blocked (on thLanes) thLanes sylL ⟨4, 4, true, .tenant, some .rw, some true⟩ (thLanes.regs.getX 4) false = false := by decide +kernel

/-- A thread with one order-queue entry of stream 0. -/
def thQueue (k : QKind) : Thread := { th with orderQ := [⟨1, 0, false, false, false, false, false, k⟩] }

theorem witness_entries :
    readyEntry (on (thQueue (.storeM (plainBytes (2 ^ 40) [1, 2]) 0))) 0 1 =
      some (thQueue (.storeM (plainBytes (2 ^ 40) [1, 2]) 0), ⟨1, 0, false, false, false, false, false, .storeM (plainBytes (2 ^ 40) [1, 2]) 0⟩) ∧
    (∀ k ∈ [QKind.remote (.arrive 0) 1 none 0, .seqadd (some (2 ^ 40)) 0 1, .atomM .add true (2 ^ 40) 1 0 none 0],
      (readyEntry (on (thQueue k)) 0 1).map (fun e => e.2.kind) = some k) ∧
    windowOpen (on (thQueue (.remote (.arrive 0) 1 none 0))) 0 1 none = true ∧ (on th).poison.contains (lineOf (2 ^ 40)) = false ∧
    (readyEntry (paged (thQueue (.seqadd none 0x100FF8 1))) 0 1).isSome = true ∧
    spotM (on (thQueue (.seqadd none 0x100FF8 1))) 0 (pasidOf (on th) 1) .rw none 0x100FF8 = .walk ∧
    spotM (paged (thQueue (.seqadd none 0x100FF8 1))) 0 (pasidOf (paged th) 1) .rw none 0x100FF8 = .gen (2 ^ 40 + 0x3FF8) ∧
    (paged th).poison.contains (lineOf (2 ^ 40 + 0x3FF8)) = false ∧
    isStack (2 ^ 40) = true ∧ (on th).net = [] ∧ Good (on (thQueue (.loadM 1))) := by unfold Good; decide +kernel

/-- A load of x5 from the first bytes of the stack that waits for its turn, whose line the cache holds or does not, poisoned or not. -/
def loading (line bad : Bool) : State :=
  { (on (thQueue (.loadM 1))).modCore 0 (fun c => { c with
      net := { c.net with misses := [missOf th (.x 5) false (2 ^ 40) 8 false [] 1] }
      cache := { c.cache with rc := if line then [⟨2 ^ 40, List.replicate 64 7⟩] else [] } }) with
    poison := if bad then [2 ^ 40] else [] }

theorem witness_class_m_load : ∀ line ∈ [true, false], ∀ bad ∈ [true, false],
    (readyEntry (loading line bad) 0 1).map (fun e => e.2.kind) = some (.loadM 1) ∧
    ((loading line bad).core 0).net.misses.find? (fun x => x.id = 1) = some (missOf th (.x 5) false (2 ^ 40) 8 false [] 1) ∧
    (usableLine (loading line bad) 0 (2 ^ 40) 8 false).isSome = line ∧ poisoned (loading line bad) (2 ^ 40) = bad ∧
    poolOwner (loading line bad) (2 ^ 40) = none := by decide +kernel

/-- A packet to core 1 in the state of a pair of cores. -/
def packet (c : Cargo) : Packet :=
  ⟨1, 0, 0, 1, none, none, 0, none, 0, 0, ⟨1, 1, 1, 0, 0, 0, [], false, 0, 0, false, false, none, 0⟩, some 1, false, none, none, none, c⟩
def sent (p : Packet) : State := { pair th with net := [p] }

theorem witness_packets : ∀ c ∈ [Cargo.store (plainBytes 0x77FFC [1, 2, 3, 4]), .load 0x77FC0 64 false 1, .arrive 0x77FF0,
      .put 0x77FC0 1 none, .put 0 1 (some 63)],
    arriving (sent (packet c)) 1 = some (packet c) ∧ admitOf (sent (packet c)) (packet c) = .take ∧ Good (sent (packet c)) ∧
    (sent (packet c)).bar.errinj.getLsbD 63 = false ∧ (packet c).entry = some 1 := by unfold Good; decide +kernel

/-- The signed load that one of these packets serves. -/
def served : State := (sent (packet (.load 0x77FC0 8 true 1))).modCore 0 (fun c =>
  { c with net := { c.net with misses := [missOf th (.x 5) false 0 8 true [] 1] } })

theorem witness_served : arriving served 1 = some (packet (.load 0x77FC0 8 true 1)) ∧
    admitOf served (packet (.load 0x77FC0 8 true 1)) = .take ∧ missOf th (.x 5) false 0 8 true [] 1 ∈ (served.core 0).net.misses ∧
    Good served ∧ served.bar.errinj.getLsbD 63 = false ∧ served.routes = [] := by unfold Good; decide +kernel

/-- A load of x5 whose data is there. -/
def miss : Miss := ⟨1, 1, some (.x 5), true, false, none, 2 ^ 40, 8, false, BitVec.allOnes 512, 0, none, [], some 7, none⟩
def missed : State := (on th).modCore 0 (fun c => { c with net := { c.net with misses := [miss] } })

theorem witness_landings : (missed.core 0).net.misses.find? (fun x => x.id = 1) = some miss ∧ miss.tid = th.tid ∧
    missed.slotOf 0 th.tid = some 0 ∧ missed.thread 0 0 = some th ∧ miss.dest = some (.x 5) ∧ miss.data = some 7 ∧
    miss.turns = none ∧ behindFlight th miss = false ∧
    (sent { packet (.arrive 0) with landed := true }).net.find? (fun q => q.id = 1) = some { packet (.arrive 0) with landed := true } ∧
    (sent { packet (.store (plainBytes 0 [1])) with held := some 0 }).net.find? (fun q => q.id = 1) =
      some { packet (.store (plainBytes 0 [1])) with held := some 0 } ∧
    (0 : Nat) ≤ (sent (packet (.arrive 0))).gtime := by decide +kernel

/-- A thread with a message for the core of VCN 1 at the head of its QNO. -/
def thQno : Thread := { th with qno := [⟨1, 1, some (1 + 2 ^ 16)⟩] }
def message : Packet := packet (.msg 1 1 0 7 0 true)

theorem witness_messages : (pair thQno).thread 0 0 = some thQno ∧ thQno.qno = [⟨1, 1, some (1 + 2 ^ 16)⟩] ∧
    (((1 + 2 ^ 16 : Vec).setWidth 64 : Word).extractLsb' 62 2 = 0) ∧
    messageBad (pair thQno) ((1 + 2 ^ 16 : Vec).setWidth 64) = false ∧
    sendRoute (pair thQno) thQno.task.rid ((1 + 2 ^ 16 : Vec).setWidth 64) = some (1, none) ∧
      windowOpen (pair thQno) 0 1 none = true ∧
    arriving (sent message) 1 = some message ∧ admitOf (sent message) message = .take ∧
    (sent message).region 1 = some { loneRegion State.reset with cores := [0, 1] } ∧
    coreOfVcn { loneRegion State.reset with cores := [0, 1] } 1 = some 1 ∧ ((sent message).core 1).net.landing = [] ∧
    ((sent message).core 1).net.heap = [] ∧ inboxOpen (sent message) 1 = true := by decide +kernel

/-- The same while core 1 has messages in its heap and `n` in its landing buffer. -/
def crowded (n : Nat) : State := (sent message).modCore 1 (fun c => { c with
  net := { c.net with heap := [(62, ⟨0, 0, 1, 7⟩)], landing := List.replicate n (2, ⟨0, 0, 1, 7⟩) } })

theorem witness_landing_buffer : ∀ n ∈ [3, 4],
    arriving (crowded n) 1 = some message ∧ admitOf (crowded n) message = .take ∧
    (crowded n).region 1 = some { loneRegion State.reset with cores := [0, 1] } ∧
    (∀ x ∈ ((crowded n).core 1).net.landing, x.1 ≠ 1) ∧ ((crowded n).core 1).net.heap ≠ [] ∧
    ((crowded n).core 1).net.landing.length = n := by decide +kernel

/-- A store and a message of another package that have arrived. -/
def inbound (c : Cargo) : State := { pair th with inbound := [{ packet c with entry := none }] }

theorem witness_inbound : ∀ c ∈ [Cargo.store (plainBytes 0x77FFC [1, 2, 3, 4]), .msg 1 1 0 7 0 true],
    inboundFirst (inbound c) 1 = some { packet c with entry := none } ∧ Good (inbound c) ∧
    (packet c).peer = none ∧ (inbound c).bar.errinj.getLsbD 63 = false ∧
    admitOf (inbound c) { packet c with entry := none, head := { (packet c).head with rid := 0 } } = .take := by unfold Good; decide +kernel

theorem witness_forwarded : Config.straps + 1 ≠ Config.straps := by
  intro h
  have e : (Config.straps + 1).toNat = (Config.straps.toNat + 1) % 16384 := BitVec.toNat_add _ 1
  rw [h] at e
  have := Config.straps.isLt
  omega

/-- A package whose peer entry 0 names the next package, over link 11, trained or not. -/
def peered (up : Bool) : State :=
  { State.reset with
    bar := { Bar.reset with peers := [(0, 0x8800000000000000 ||| (Config.straps + 1).setWidth 64), (1, 0xC000000000000000)] }
    links := State.reset.links.set 11 ⟨0xC7, if up then 2 else 0, false, false⟩ }

theorem peer_entry (b : BitVec 14) : ((0x8800000000000000 : Word) ||| b.setWidth 64).getLsbD 63 = true ∧
    ((0x8800000000000000 : Word) ||| b.setWidth 64).getLsbD 62 = false ∧
    ((0x8800000000000000 : Word) ||| b.setWidth 64).getLsbD 59 = true ∧
    ((0x8800000000000000 : Word) ||| b.setWidth 64).extractLsb' 0 14 = b := by
  refine ⟨by simp, by simp [BitVec.getLsbD_of_ge], by simp, ?_⟩
  have z : ∀ i, i < 14 → (0x8800000000000000 : Word).getLsbD i = false := by decide
  ext i hi
  have := z i hi
  simp_all [BitVec.getElem_extractLsb']
  omega

theorem witness_peer_route : peerIndex State.reset (Config.straps + 1) = none ∧ (peered true).net = [] ∧ (peered true).inbound = [] ∧
    trainedLinks (peered false) (assocGet (peered false).bar.peers 0 0) = [] ∧ anyLink (peered true) = true ∧
    anyLink (peered false) = false ∧ (peered true).answers = [] ∧
    ∀ up, peerOf (peered up) 0 = .away ∧ peerIndex (peered up) (Config.straps + 1) = some 0 ∧
      (11 ∈ trainedLinks (peered true) (assocGet (peered true).bar.peers 0 0)) := by
  refine ⟨by decide +kernel, rfl, rfl, ?_, by decide +kernel, by decide +kernel, rfl, fun up => ⟨?_, ?_, ?_⟩⟩
  · unfold trainedLinks
    rw [List.filter_eq_nil_iff]
    intro k hk
    have : linkUp (peered false) k = false := by
      have : ∀ k, k < 12 → linkUp (peered false) k = false := by decide +kernel
      exact this k (by simpa using hk)
    simp [this]
  · obtain ⟨a, b, _, c⟩ := peer_entry (Config.straps + 1)
    show (if (!((((0x8800000000000000 : Word) ||| (Config.straps + 1).setWidth 64).getLsbD 63 &&
        ((0x8800000000000000 : Word) ||| (Config.straps + 1).setWidth 64).getLsbD 62) || true) ||
        !((0x8800000000000000 : Word) ||| (Config.straps + 1).setWidth 64).getLsbD 63) = true then Peer.none
      else if ((0x8800000000000000 : Word) ||| (Config.straps + 1).setWidth 64).getLsbD 62 = true then Peer.here
      else if ((0x8800000000000000 : Word) ||| (Config.straps + 1).setWidth 64).extractLsb' 0 14 = Config.straps then Peer.none
      else Peer.away) = Peer.away
    rw [a, b, c]
    simp
  · obtain ⟨a, b, _, c⟩ := peer_entry (Config.straps + 1)
    unfold peerIndex
    rw [show List.range 4096 = 0 :: (List.range 4095).map Nat.succ from List.range_succ_eq_map, List.find?_cons_of_pos]
    · rfl
    · show ((((0x8800000000000000 : Word) ||| (Config.straps + 1).setWidth 64).getLsbD 63 &&
        !((0x8800000000000000 : Word) ||| (Config.straps + 1).setWidth 64).getLsbD 62) &&
        decide (((0x8800000000000000 : Word) ||| (Config.straps + 1).setWidth 64).extractLsb' 0 14 = Config.straps + 1)) = true
      rw [a, b, c]
      simp
  · unfold trainedLinks
    rw [List.mem_filter]
    refine ⟨by simp, ?_⟩
    show (((0x8800000000000000 : Word) ||| (Config.straps + 1).setWidth 64).getLsbD 59 && linkUp (peered true) 11) = true
    rw [(peer_entry _).2.2.1]
    decide +kernel

/-- A packet for another package on its link. -/
theorem witness_acks : (sent { packet (.arrive 0) with peer := some 0, link := some 11 }).net.find? (fun q => q.id = 1) =
    some { packet (.arrive 0) with peer := some 0, link := some 11 } := by decide +kernel

/-- Core 0 with a message in its landing buffer, and in its heap. -/
def storing : State := (on th).modCore 0 (fun c => { c with net := { c.net with landing := [(1, ⟨0, 0, 1, 7⟩)] } })
def stored : State := (on th).modCore 0 (fun c => { c with net := { c.net with heap := [(62, ⟨0, 0, 1, 7⟩)] } })

theorem witness_attic : (storing.core 0).net.landing = [(1, ⟨0, 0, 1, 7⟩)] ∧ (storing.core 0).net.heap.length < 63 ∧
    (stored.core 0).net.heap = [(62, ⟨0, 0, 1, 7⟩)] ∧ inboxOpen stored 0 = true ∧ Good storing ∧ Good stored ∧
    storing.bar.errinj.getLsbD 63 = false := by unfold Good; decide +kernel

/-- A deferred atomic whose interval has ended. -/
def deferral : Deferred := ⟨3072, some 1023, 0, 0, .add, true, 2 ^ 40, 1, 0, 0, 1⟩
def deferring : State := { on th with deferred := [deferral], sched := { (on th).sched with clock := 1024 } }

/-- A second one of the same word, of its other half, with the smaller key, and the miss that waits for its value. -/
def deferral2 : Deferred := ⟨3072, some 1022, 0, 1, .xchg, false, 2 ^ 40 + 4, 2, 0, 0, 2⟩
def deferring2 : State :=
  { missed.modCore 0 (fun c => { c with net := { c.net with misses := [{ miss with id := 2, data := none }] } }) with
    deferred := [deferral2, { deferral with q := 0 }], sched := { missed.sched with clock := 1024 } }

theorem witness_batch : batchOf deferring2 (2 ^ 40) = [{ deferral with q := 0 }, deferral2] ∧
    deferring2.poison.contains (lineOf (2 ^ 40)) = false ∧ deferring2.bar.errinj.getLsbD 63 = false ∧
    (match exec (.detAtomicBatch (2 ^ 40)) deferring2 with
      | .next u => (u.core 0).net.misses.any (fun x => x.id = 2) | _ => false) = true ∧
    batchOf deferring (2 ^ 40) = [deferral] := by decide +kernel

/-- A header of the thread `th`, which produces token 1. -/
def head0 : EHead := ⟨1, 1, 1, 0, 0x8000, 1, [], false, 0, 0, false, true, none, 0⟩

/-- Core 0 with one E instruction of `th` outside its gang engine. -/
def jobbed (h : EHead) (k : JobKind) : State :=
  (on th).modCore 0 (fun c => { c with net := { c.net with jobs := [⟨h, k⟩] } })

/-- A copy command of kind 3, of 64 bytes from the scratchpad to byte 0x100 of core 1. -/
def copyAway : Vec := BitVec.ofNat 512 (3 + 64 * 2 ^ 32 + 0x800000800100 * 2 ^ 128 + 2 ^ 256)

/-- Core 0 with one E instruction, in clock 1, with cores 0 and 1 and the page at 0x100000. -/
def copier (h : EHead) (k : JobKind) (net : List Packet) : State :=
  { pair th with
    cores := [(0, { coreOf th with net := { Core.reset.net with jobs := [⟨h, k⟩] }, cache := { Core.reset.cache with tlb := [page] } })]
    net := net, sched := { (pair th).sched with clock := 1 } }

theorem witness_copies :
    copyJob (copier head0 (.copy 3 copyCmd 0) []) 0 3 = some (⟨head0, .copy 3 copyCmd 0⟩, parseCopy copyCmd, 0) ∧
    nextCopyTag (copier head0 (.copy 3 copyCmd 0) []) 0 = some 3 ∧ chunkInFlight (copier head0 (.copy 3 copyCmd 0) []) 0 3 = none ∧
    copyJob (copier head0 (.copy 3 copyAway 0) []) 0 3 = some (⟨head0, .copy 3 copyAway 0⟩, parseCopy copyAway, 0) ∧
    nextCopyTag (copier head0 (.copy 3 copyAway 0) []) 0 = some 3 ∧ chunkInFlight (copier head0 (.copy 3 copyAway 0) []) 0 3 = none ∧
    (parseCopy copyCmd).kind = 2 ∧
    (match keysM (copier head0 (.copy 3 copyCmd 0) []) 0 1 .w 0x100000 64 with
      | .ok l => l = (List.range 64).map (fun i => 2 ^ 40 + 0x3000 + i) | .error _ => false) = true ∧
    chunkSpan (parseCopy copyCmd) 0 = (0, 0x100000, 64) ∧
    (parseCopy copyAway).kind = 3 ∧ chunkSpan (parseCopy copyAway) 0 = (0, 0x800000800100, 64) ∧ gCore 0x800000800100 = 1 ∧
    windowOpen (copier head0 (.copy 3 copyAway 0) []) 0 1 none = true ∧
    strayChunks (copier head0 (.copy 3 copyAway 0) []) 0 3 1 none = false := by decide +kernel

theorem witness_copies_end : copyJob (copier head0 (.copy 3 copyCmd 1) []) 0 3 = some (⟨head0, .copy 3 copyCmd 1⟩, parseCopy copyCmd, 1) ∧
    chunkTotal (parseCopy copyCmd) = 1 ∧ (copier head0 (.copy 3 copyCmd 1) []).net.any (chunkOf 0 3) = false ∧ head0.kp ≠ 0 ∧
    copyJob (copier { head0 with asked := some 1 } (.copy 3 copyCmd 0) []) 0 3 =
      some (⟨{ head0 with asked := some 1 }, .copy 3 copyCmd 0⟩, parseCopy copyCmd, 0) ∧
    ({ head0 with asked := some 1 } : EHead).asked.isSome = true ∧ (parseCopy copyCmd).kind ≠ 3 ∧ copyMailbox (parseCopy copyCmd) = none ∧
    copyMailbox (parseCopy (copyCmd ||| BitVec.ofNat 512 (2 ^ 14 + 2 ^ 13))) = some 32 := by decide +kernel

theorem witness_copy_fails : ∀ timed ∈ [true, false], let s := copier { head0 with asked := some 1, timed := timed } (.copy 3 copyCmd 0) []
    copyJob s 0 3 = some (⟨{ head0 with asked := some 1, timed := timed }, .copy 3 copyCmd 0⟩, parseCopy copyCmd, 0) ∧
    s.thread 0 0 = some th ∧ th.tid = head0.tid ∧ s.region head0.rid = some { loneRegion State.reset with cores := [0, 1] } ∧
    (loneRegion State.reset).phase ≠ .ending ∧ (s.core 0).cellar.frozen = false := by decide +kernel

/-- A copy to core 1 whose one chunk is in flight. -/
def copying : State := copier head0 (.copy 3 copyAway 1) [packet (.chunk 3 (plainBytes 0x77FC0 [1]) none true 0 none)]

theorem witness_chunk_in_flight : copyJob copying 0 3 = some (⟨head0, .copy 3 copyAway 1⟩, parseCopy copyAway, 1) ∧
    nextCopyTag copying 0 ≠ some 3 ∧
    chunkInFlight copying 0 3 = some (packet (.chunk 3 (plainBytes 0x77FC0 [1]) none true 0 none)) := by decide +kernel

theorem witness_wmset : ∀ l ∈ [0x40, 0x78000],
    ((jobbed head0 (.wmset 7 0x40 l)).core 0).net.jobs.find? (fun x => x.head.id = 1) = some ⟨head0, .wmset 7 0x40 l⟩ ∧
    ((jobbed head0 (.wmset 7 0x40 l)).core 0).net.jobs.head? = some ⟨head0, .wmset 7 0x40 l⟩ ∧
    headReady (jobbed head0 (.wmset 7 0x40 l)) 0 head0 = true ∧ head0.bad = false := by decide +kernel

/-- A domain at its tick 0, on core 0, whose router has read a table of one entry. -/
def ticking : State :=
  { (on th).modCore 0 (fun c => { c with net := { c.net with router := ⟨some 1, [], [([0], head0)]⟩ } }) with
    domains := [⟨1, 0, 0, 16, false, none, none, 0, 0⟩] }

theorem witness_ticks : ticking.domains.find? (fun x => x.root = 1) = some ⟨1, 0, 0, 16, false, none, none, 0, 0⟩ ∧
    isTick ticking ⟨1, 0, 0, 16, false, none, none, 0, 0⟩ = true ∧ (ticking.core 0).net.router.dom = some 1 ∧
    (ticking.core 0).net.router.next = [([0], head0)] := by decide +kernel

/-- A packet for core 1 at core n in that domain, whose routers send from core 0 to core 1 and deliver there. -/
def hopping (n : Nat) (code : BitVec 3) (out : Bool) : SnPacket := ⟨1, n, code, 1, 0, head0, 0, out, 7⟩
def routed : State :=
  ((pair th).modCore 0 (fun c => { c with net := { c.net with router := ⟨some 1, [0x28], []⟩ } })).modCore 1 (fun c =>
    { c with net := { c.net with router := ⟨some 1, [0x4000], []⟩ } })

theorem witness_hops : tableEntryAt [0x28] 0 = 0x28 ∧ (0x28 : Nat) / 2 ^ 3 % 8 = 5 ∧ 0x28 / 2 ^ 0 % 8 ≠ 5 ∧ neighbour 0 1 = some 1 ∧
    distance 1 1 < distance 0 1 ∧ (routed.core 0).net.router.dom = some 1 ∧ (hopping 0 5 false).from'.toNat = 5 ∧
    (0x4000 : Nat) / 2 ^ (3 * 4) % 8 = (hopping 1 4 false).from'.toNat ∧ (∀ i, i < 4 → (0x4000 : Nat) / 2 ^ (3 * i) % 8 ≠ 4) ∧
    (routed.core 1).net.inbox.length + pendingSnet routed 1 < 64 ∧ (hopping 1 4 true).out = true ∧
    (∀ o, o < 5 → (0x28 : Nat) / 2 ^ (3 * o) % 8 ≠ 3) ∧ (hopping 0 3 false).from'.toNat = 3 ∧
    (routed.region 1).all (fun q => q.phase ≠ .ending) = true := by decide +kernel

/-- Core 0 of a live region with an engine. -/
def engined (f : Engine → Engine) : State := (on th).modCore 0 (fun c => { c with eng := f c.eng })

/-- A running MXRUN of n steps on core 0 alone. -/
def running (n : Nat) (out : Bool) (steps : List StepRun) (tail : Option Nat) : MxOp :=
  ⟨head0, false, n, ⟨false, out, 4, 0, 0, 0, 0, 0⟩, 0x220, 0, 1, 0, [], 0, n, 0, steps, [], false, false, tail⟩

/-- Sixteen packed rows of zeros. -/
def rows16 : List RowPack := List.replicate 16 ⟨[], [], false, false⟩

theorem witness_engine_steps : (∀ k ∈ [EngKind.mxldb 15 0x1000, .mxclr false],
      ((engined (fun e => { e with queue := [⟨head0, some 0, k⟩] })).core 0).eng.queue = [⟨head0, some 0, k⟩]) ∧
    ((engined (fun e => { e with rds := [⟨head0, false, 5, 6, 0, 0, some (7, 8)⟩] })).core 0).eng.rds.find? (fun r => r.head.id = 1) =
      some ⟨head0, false, 5, 6, 0, 0, some (7, 8)⟩ ∧ th.tid = head0.tid := by decide +kernel

/-- An MXRUN that waits for its start. -/
def starting : State := engined (fun e => { e with queue := [⟨head0, none, .mxrun false 65535 none⟩] })

theorem witness_mxrun_start : gangSize starting 0 = 1 ∧ headRun starting 0 = some (head0, false, 65535, none) ∧
    mxArrived starting 0 = true ∧
    checkMember starting 0 0 head0 65535 none = some (⟨false, false, 4, 0, 0, 0, 0, 0⟩, .ok 0 []) := by decide +kernel

theorem witness_mxrun_steps :
    chunkReady (engined (fun e => { e with run := some (running 2 false [⟨0, 0, []⟩] none), qma := [⟨1, 1, some 7⟩] })) 0 = true ∧
    stepComplete (engined (fun e => { e with run := some (running 2 false [⟨0, 271, rows16⟩] none) })) 0 = true ∧
    stepComplete (engined (fun e => { e with run := some (running 1 true [⟨0, 271, rows16⟩] none) })) 0 = true ∧
    ksOf (running 2 false [] none).mxcfg = 1 ∧ (running 2 true [] (some 0)).tail = some 0 ∧
    (engined id).bar.errinj.getLsbD 63 = false := by decide +kernel

theorem witness_elements : Elem.clear.empty = true ∧ (⟨1, 0, 0, false, false, false, false, false⟩ : Elem).empty = false ∧
    rows16[15]? = some ⟨[], [], false, false⟩ ∧ [fmtF32, fmtBF16, fmtF16, fmtE4M3][(3 : Nat)]? = some fmtE4M3 ∧
    127 * (512 / 16) + 31 < 4096 := by decide +kernel

/-- A record of a task at 0x8000 whose first readiness pair is counter 0 at a threshold, and one of a gang of four. -/
def paired (n : Nat) : Vec := BitVec.ofNat 512 (0x8000 + n * 2 ^ 276 + 0xFFFFF * (2 ^ 320 + 2 ^ 384 + 2 ^ 448))
def ganged : Vec := record ||| BitVec.ofNat 512 (4 * 2 ^ 112)

/-- Die 0 with one record for region 1, and the page of its counters and records. -/
def entry (v : Vec) (ready : Option Nat) (first : Option Nat) : Entry := ⟨7, 1, v, 5, some 0, ready, 7, first, false, none, none, 0, false, [], none⟩
def waiting (e : Entry) : State := (on th).modDie 0 (fun d => { d with tlb := [page], disp := [e] })

theorem witness_readiness : (waiting (entry record none none)).region 1 = some (loneRegion State.reset) ∧
    ((waiting (entry record none none)).die 0).disp.find? (fun x => x.id = 7) = some (entry record none none) ∧
    (parseTrec record).used = [] ∧ (parseTrec (paired 0)).used = [(0, 0)] ∧
    watchPair (waiting (entry (paired 0) none none)) 0 (loneRegion State.reset) (0, 0) = .met ∧
    watchRecord (waiting (entry (paired 1) none none)) 0 (loneRegion State.reset) (parseTrec (paired 1)) = .later := by decide +kernel

theorem witness_enqueue : (sent (packet (.record 0 record))).net.find? (fun p => p.id = 1) = some (packet (.record 0 record)) ∧
    (parseTrec record).target (packet (.record 0 record)).head.rid = 1 ∧
    (sent (packet (.record 0 record))).region 1 = some { loneRegion State.reset with cores := [0, 1] } ∧
    ({ loneRegion State.reset with cores := [0, 1] } : Region).phase ≠ .ending ∧
      (loneRegion State.reset).det = false := by decide +kernel

/-- A region of cores 0 to 3 in gangs of four, with a gang's record ready. -/
def ganging : State :=
  { waiting (entry ganged (some 0) (some 0)) with regions := [{ loneRegion State.reset with gpart := 1, cores := [0, 1, 2, 3], rows := [0] }] }

theorem witness_placement : placeNow (waiting (entry record (some 0) none)) 0 = some (entry record (some 0) none, ⟨0, 1, 1⟩) ∧
    placeNow ganging 0 = some (entry ganged (some 0) (some 0), ⟨0, 1, 4⟩) ∧
    (0 : Nat) + pressAfter ganging 1 ≤ ganging.sched.clock + pressAfter ganging 1 ∧ th.life.started = false := by decide +kernel

/-- A region with nothing left to run. -/
def resting : State := { State.reset with regions := [loneRegion State.reset] }

/-- An armed entry of die 0, and the state whose region 1 it launches into. -/
def due : RmEntry := ⟨0, 0, 0x100000, 0, 1, 0x80, 0, 1, 0⟩
def launching : State :=
  { resting.modDie 0 (fun d => { d with tlb := [page], rm := [(255, due)] }) with
    regions := [{ loneRegion State.reset with timed := true, tslots := 0x7F }]
    mem := [⟨2 ^ 40 + 0x3001, 0x80⟩, ⟨2 ^ 40 + 0x300E, 1⟩, ⟨2 ^ 40 + 0x3018, 1⟩] }

theorem witness_boundary : resting.region 1 = some (loneRegion State.reset) ∧ (loneRegion State.reset).atRest = false ∧
    restful resting 1 = true := by decide +kernel

theorem witness_launch : rmGet launching 0 255 = due ∧ rmDue due ≤ launching.gtime ∧ due.period = 0 ∧
    launching.gtime ≤ rmDue (rmAdvance due) ∧
    launching.region 1 = some { loneRegion State.reset with timed := true, tslots := 0x7F } ∧
    (rmRecord launching 0 { loneRegion State.reset with timed := true, tslots := 0x7F } due.trec).isSome = true ∧
    (rmRecord launching 0 { loneRegion State.reset with timed := true, tslots := 0x7F } due.trec).all (fun v =>
      rmValid { loneRegion State.reset with timed := true, tslots := 0x7F } (parseTrec v)) = true ∧
    rmCores { loneRegion State.reset with timed := true, tslots := 0x7F } due = [0] ∧
    slotFree launching { loneRegion State.reset with timed := true, tslots := 0x7F } 0 0 = true ∧
    placing launching { loneRegion State.reset with timed := true, tslots := 0x7F } = true ∧
    launching.bar.errinj.getLsbD 63 = false := by decide +kernel

/-- A ready device with tenant 0 bound, a page that the host's starts read, and what stands there. -/
def starts (m : List Host.Cell) : State :=
  { State.reset.modDie 0 (fun d => { d with tlb := [page] }) with
    mem := m, bar := { Bar.reset with ready := true, tenbind := Bar.reset.tenbind.set 0 0x8000000000000000 } }

/-- An RCB of region 1 that overrides its counter pool. -/
def rcb : List Host.Cell := [⟨2 ^ 40 + 0x3000, 1⟩, ⟨2 ^ 40 + 0x3003, 2⟩, ⟨2 ^ 40 + 0x3004, 1⟩, ⟨2 ^ 40 + 0x302A, 0x10⟩,
  ⟨2 ^ 40 + 0x3030, 1⟩, ⟨2 ^ 40 + 0x3034, 0xFF⟩, ⟨2 ^ 40 + 0x3035, 0xFF⟩, ⟨2 ^ 40 + 0x3036, 0x0F⟩]

theorem witness_start_refused : judge (startReads (starts []) .pf 0x100000) .pf 0x100000 true = .refuse 0x10 0 ∧
    (starts []).bar.errinj.getLsbD 63 = false ∧ accepting (starts []) = true ∧
    ((starts []).fnRegs .pf).startWait = none ∧ accepting State.reset = false := by decide +kernel

theorem witness_start_accepted : (match judge (startReads (starts rcb) .pf 0x100000) .pf 0x100000 true with
      | .start r root => r.rid = 1 && root.isNone &&
        (match requestBlock (readRequest (startReads (starts rcb) .pf 0x100000) .pf r) .pf r with | .error (.ask _ _) => false | _ => true) | _ => false) = true ∧
    (starts rcb).bar.errinj.getLsbD 63 = false ∧
    Good (starts rcb) := by unfold Good; decide +kernel

/-- A region with an open manifest of one range of one byte. -/
def manifest : Manifest := ⟨1, 1, 0, 0, 1, 0, 0, [(1, 1, 0x100FFF)], [], 0, 0, [0x100], false⟩
def noting : State :=
  { State.reset.modDie 0 (fun d => { d with tlb := [page] }) with
    regions := [{ loneRegion State.reset with manifest := some 1, digest := true }], manifests := [manifest] }

theorem witness_manifest : noting.manifests.find? (fun m => some m.id = some 1 && !m.closed) = some manifest ∧
    manifest.ranges[manifest.recs.length]? = some (1, 1, 0x100FFF) ∧
    (match rangeBytes (devNotes noting 0 0x100FFF (0x100FFF + 1) 0) 0 0x100FFF 1 with | .ok l => l = [0] | .error _ => false) = true ∧
    noting.bar.errinj.getLsbD 63 = false ∧
      openManifest noting 1 = some manifest ∧
    pagesAsk noting 0 [0x100] = none ∧
    noting.manifests.find? (fun m => m.id = (1 : Word).toNat) = some manifest ∧ (1 : BitVec 8).toNat ≤ 4 ∧
      (4 : BitVec 8).toNat ≤ 4 := by
  decide +kernel

/-- The same with its range hashed, in a package that is ready. -/
def hashed : State :=
  { noting with manifests := [{ manifest with ranges := [] }], bar := { Bar.reset with stage := 7 } }

theorem witness_digest : openManifest hashed 1 = some { manifest with ranges := [] } ∧
    (hashed.region 1).any (fun r => r.digest) = true ∧ ([] : List (Byte × BitVec 32 × Word)).length ≤ ({ manifest with ranges := [] } : Manifest).recs.length ∧
    pagesAsk hashed 0 [0x100] = none ∧ regsOpen hashed = true := by decide +kernel

/-- A thread with changes of its life. -/
def living (f : Life → Life) : Thread := { th with life := f th.life }
def thTold : Thread := { th with reports := [.trap 5] }

theorem witness_report_taken : (handled thTold).thread 0 0 = some thTold ∧ reportNow (handled thTold) 0 thTold = some (.trap 5) ∧
    (handled thTold).frozenFor thTold = false ∧ (handled thTold).region 1 = some { loneRegion State.reset with hvec := 0x9000 } ∧
    isFatal (handled thTold) thTold (reportInfo (.trap 5)).1 = false := by decide +kernel

theorem witness_saves : ∀ va ∈ [1, 0], (on (living (fun l => { l with saving := some va }))).thread 0 0 =
      some (living (fun l => { l with saving := some va })) ∧
    saveReady (on (living (fun l => { l with saving := some va }))) 0 (living (fun l => { l with saving := some va })) = true ∧
    th.life.faulted = none ∧ th.life.resuming = false ∧ Good (on (living (fun l => { l with saving := some va }))) ∧
    dispatchFull (on (living (fun l => { l with saving := some va }))) 0 = false ∧
    reading (on (living (fun l => { l with saving := some va }))) 0 th.tid = false := by
  unfold Good; decide +kernel

/-- A state in which a debug stop of the thread in slot 0 is requested. -/
def stopping (t : Thread) : State := { on t with bar := { Bar.reset with dbgwho := some 1 } }

theorem witness_debug : namedThread (on th) 1 0 0 = some (0, th) ∧ namedThread (on th) 1 1 0 = none ∧
  namedThread (on th) 1 0 7 = none ∧
    stopActive (on th) = false ∧ th.timed = false ∧ namedThread (stopping th) 1 0 0 = some (0, th) ∧ th.life.stopped = false ∧
    (stopping th).bar.dbgwho = some th.tid ∧
    (restoreTail (stopping (living (fun l => { l with stopped := true }))) 0 0 (living (fun l => { l with stopped := true }))).isSome = true ∧
    (living (fun l => { l with stopped := true })).life.stopReq = false ∧ (stopping th).bar.errinj.getLsbD 63 = false ∧
    saveReady (stopping (living (fun l => { l with stopped := true, stopReq := true }))) 0
      (living (fun l => { l with stopped := true, stopReq := true })) = true ∧
    (living (fun l => { l with stopped := true, stopReq := true })).pipe.flights = [] := by decide +kernel

/-- A state with one domain. -/
def timing (d : Domain) : State := { on th with domains := [d] }

theorem witness_freeze : (timing ⟨1, 0, 0, 16, false, some 0, none, 0, 0⟩).domains.find? (fun d => d.root = 1) =
      some ⟨1, 0, 0, 16, false, some 0, none, 0, 0⟩ ∧
    (0 : Nat) ≤ domClock (timing ⟨1, 0, 0, 16, false, some 0, none, 0, 0⟩) ⟨1, 0, 0, 16, false, some 0, none, 0, 0⟩ ∧
    (timing ⟨1, 0, 0, 16, true, none, some 0, 0, 0⟩).domains.find? (fun d => d.root = 1) =
      some ⟨1, 0, 0, 16, true, none, some 0, 0, 0⟩ := by decide +kernel

/-- A thread that waits. -/
def thWaits (w : Wait) : Thread := { th with pipe := { th.pipe with wait := w }, tok := th.tok.set 1 .done }

theorem witness_turns : (on th).thread 0 0 = some th ∧ (∀ m ∈ ((on th).core 0).net.misses, m.tid ≠ th.tid) ∧ th.life.saving = none ∧
    (on th).frozenFor th = false ∧ mayReport (on th) 0 th = true ∧ th.pipe.fetchAt ≤ (on th).coreClock 0 ∧ th.pipe.wait = .none ∧ th.pipe.waitLeft = 0 ∧
    releasesDone (thWaits (.waitk 0x7F)) = true ∧ (on (thWaits (.waitmb 63 0))).thread 0 0 = some (thWaits (.waitmb 63 0)) ∧
    (thWaits (.waitmb 63 0)).pipe.wait = .waitmb 63 0 ∧ releasesDone (thWaits (.waitmb 63 0)) = true ∧
    ¬(1 : BitVec 32) ≤ ((on th).core 0).net.mbc[(63 : BitVec 6).toNat] ∧ (0 : BitVec 32) ≤ ((on th).core 0).net.mbc[(63 : BitVec 6).toNat] ∧
    (on th).gtime < (1 : Word).toNat ∧ (0 : Word).toNat ≤ (on th).gtime ∧
    (∀ j, j < 7 → (0x7F : BitVec 7).getLsbD j = true → (thWaits (.waitk 0x7F)).tok[j + 1]? ≠ some .pending) := by decide +kernel

/-- A thread that waits and whose waiter a home slice has registered, in a state of core clock 200. -/
def thWatches (w : Wait) (o : Option (Nat × Option (Nat × Bool))) : Thread := { th with pipe := { th.pipe with wait := w, watch := o } }
def later (t : Thread) : State := { paged t with sched := { (paged t).sched with clock := 200 } }

theorem witness_later_waits : (∀ w ∈ [Wait.waita 0x77FF8 0, .waitb 0x77FF0 0, .seqwait 1 0 1],
      (later (thWatches w none)).thread 0 0 = some (thWatches w none) ∧ (thWatches w none).pipe.watch = none ∧
      releasesDone (thWatches w none) = true) ∧
    (later th).bar.errinj.getLsbD 63 = false ∧ (0x77FF8 : Word).toNat % 8 = 0 ∧ (0x77FF8 : Word).toNat + 8 ≤ 0x78000 ∧
    releasesDone { thReleasing with pipe := { th.pipe with wait := .seqwait 1 0 1, watch := some (2 ^ 40, some (0, false)) } } = false ∧
    spotM (later th) 0 (pasidOf (later th) 1) .r none (counterAddr (later th) 1 0) = .gen (2 ^ 40 + 0x3000) ∧
    poisoned (later th) (2 ^ 40 + 0x3000) = false ∧
    (later (thWatches (.seqwait 1 0 1) (some (2 ^ 40, none)))).thread 0 0 = some (thWatches (.seqwait 1 0 1) (some (2 ^ 40, none))) ∧
    (∀ far ∈ [64, 128], 0 + far < (later th).coreClock 0 + 16) := by decide +kernel

/-- A device that takes operations, with a translation of the first 2 MiB and a region of core 0 in a phase. -/
def operating (r : Region) (t : Thread) (busy : Bool) : State :=
  { (on t).modDie 0 (fun d => { d with tlb := [⟨⟨0, 0, 21, 0x200000, false, true, true, true⟩, true⟩] }) with
    regions := [r]
    bar := { Bar.reset with ready := true, fns := if busy then [(.pf, { FnRegs.reset with regopst := 0x1000000000200 })] else [] } }

/-- The region in a phase. -/
def phased (p : Phase) : Region := { loneRegion State.reset with phase := p }
/-- It evicted, with the image of core 0 and its seals. -/
def evicted (l : List (Nat × Nat)) : Region := { phased .evicted with evicted := [(0, Core.reset)], seals := l }

theorem witness_operates : ∀ p ∈ [Phase.live, .parked, .evicted], Operates (operating (phased p) th false) .pf 0x1000000000000 (phased p) := by
  unfold Operates; decide +kernel

theorem witness_region_operations : anyTimed (operating (phased .live) th false) 1 = false ∧
    anyTimed { operating (phased .live) th false with domains := [⟨1, 0, 0, 16, false, none, none, 0, 0⟩] } 1 = true ∧
    ancestorsPlaced (operating (phased .parked) th false) (phased .parked) = true ∧
    coresFree (operating (phased .parked) th false) 1 .parked = true ∧
    busyFn (operating (phased .parking) th true) 1 = some .pf ∧
    nothingRuns { operating (phased .parking) th true with cores := [] } 1 = true ∧
    evictReady { operating (phased .evicting) th true with cores := [] } (phased .evicting) = true ∧
    (∀ t, endDue (operating (phased .ending) t false) (phased .ending) = true) := by
  refine ⟨by decide +kernel, by decide +kernel, by decide +kernel, by decide +kernel, by decide +kernel, by decide +kernel, by decide +kernel,
    fun _ => rfl⟩

theorem witness_ends : let s := operating (phased .ending) th false
    let live := operating (phased .live) th false
    poisonPending (beginEnd { s with known := [page.t] } 1 3) 1 = false ∧ poisonPending (beginEnd s 1 3) 1 = true ∧
    poisonPending (opBusy (beginEnd { live with known := [page.t] } 1 2) .pf 1) 1 = false ∧
    poisonPending (opBusy (beginEnd live 1 2) .pf 1) 1 = true ∧
    s.bar.errinj.getLsbD 63 = false := by decide +kernel

/-- The keys of its image. -/
def keys : List Nat := (List.range 256).map (fun i => 2 ^ 40 + 0x200000 + 4096 * i)

theorem witness_images : evicted [] ∈ (operating (evicted []) th false).regions ∧
    ancestorsPlaced (operating (evicted []) th false) (evicted []) = true ∧
      coresFree (operating (evicted []) th false) 1 .evicted = true ∧
    slotsFree (operating (evicted []) th false) (evicted []) = true ∧
    (match imageKeys (operating (evicted []) th false) (evicted []) .r (List.range 256) with | .ok k => k = keys | .error _ => false) = true ∧
    (match imageKeys (operating (phased .evicting) th true) (phased .evicting) .w (List.range 256) with
      | .ok k => k = keys | .error _ => false) = true ∧
    (match imageKeys (on th) (evicted []) .r (List.range 256) with | .error (.ask _ _) => true | _ => false) = true ∧
    (∀ e ∈ (evicted []).evicted, ∀ k, k < 8 → (e.2.slots[k]?).join = none) := by decide +kernel

theorem byte_differs : ∀ b : Byte, b + 1 ≠ b := by decide

theorem witness_seal : sealBad { operating (evicted [(0, 0)]) th false with
    mem := [⟨2 ^ 40 + 0x200000 + 0xA2000, Config.sealedByte 0 0 0 + 1⟩] } keys 0 0 = true := by
  unfold sealBad
  rw [List.any_eq_true]
  refine ⟨0, by simp, ?_⟩
  rw [show imageSpot keys 0 (0xA2000 + 0) = 2 ^ 40 + 0x200000 + 0xA2000 by decide +kernel]
  exact decide_eq_true (by
    rw [show ∀ b : Byte, Memory.read [⟨2 ^ 40 + 0x200000 + 0xA2000, b⟩] (2 ^ 40 + 0x200000 + 0xA2000) = b from fun b => by
      simp [Memory.read]]
    exact byte_differs _)

theorem witness_interrupt : fnOwns (on th) .pf 1 = true ∧ namedThread (on th) 1 0 0 = some (0, th) := by decide +kernel

/-- A capture whose wave has reached core 0, at the Vault or kept. -/
def capture : Capture := ⟨1, 0, 0x10, 0, 1, false, 0, [], [], 0, [], [.core 0], [], [], true, some 1⟩
def captured : State := { on th with vault := { Vault.reset with taking := [capture], kept := [capture] } }

theorem witness_faults : ((on th).core 0).ended = [] ∧ (∀ j, j < 8 → ((on th).thread 0 j).all (fun t => t.qev = []) = true) ∧
    (0x20 : BitVec 16).toNat ≥ 0x20 ∧ (0x1F : BitVec 16).toNat < 0x20 ∧ (on th).thread 0 0 = some th ∧
    (on th).region th.task.rid = some (loneRegion State.reset) ∧ ((on th).core 0).cellar.frozen = false ∧
    headCapture captured.vault.taking = some capture ∧ capture.reached.contains (.core 0) = true ∧
    (0x100 : BitVec 32).toNat % 256 = 0 ∧ captured.vault.kept.find? (fun c => c.id = (1 : Word).toNat) = some capture ∧
    capture.hasFull = true := by decide +kernel

/-- A ready package with the mailbox of a function at a command, or idle. -/
def mailed (busy : Bool) : State :=
  { captured with
    bar := { Bar.reset with stage := 7 }
    vault := { captured.vault with boxes := [(.pf, { Mailbox.reset with busy := busy })] } }

theorem witness_mailbox : regsOpen (mailed true) = true ∧ (boxOf (mailed true) .pf).busy = true ∧ (boxOf (mailed false) .pf).busy = false ∧
    (boxOf (mailed false) .pf).voff.toNat % 256 = 0 ∧ (boxOf (mailed false) (.vf 15)).busy = false ∧ (mailed false).vault.kept.find? (fun c => c.id = (1 : Word).toNat) = some capture := by
  decide +kernel

/-- The package in a stage of its bring-up. -/
def staged (n : Nat) (bad : BitVec 4) : State := { State.reset with bar := { Bar.reset with stage := n, failst := bad } }

theorem witness_stages : State.reset.bar.stage = 1 ∧ (staged 3 0xF).bar.stage < 4 ∧ (staged 4 0xF).bar.failst = 0xF ∧
    (∀ l ∈ (staged 4 0xF).links.toList, l.training = false ∧ l.stat.getLsbD 1 = false) ∧ (staged 4 2).bar.failst ≠ 0xF ∧ (∀ l ∈ (staged 5 0xF).links.toList, l.training = false) ∧ (staged 6 0xF).bar.stage = 6 ∧
    regsOpen (staged 4 0xF) = true ∧ regsOpen (staged 3 0xF) = false := by decide +kernel

/-- Link 11 in a state, in a package whose registers are open. -/
def linked (l : Link) : State := { staged 7 0xF with links := State.reset.links.set 11 l }

theorem witness_links : linkAt (linked ⟨0xC7, 2, true, true⟩) 11 = some ⟨0xC7, 2, true, true⟩ ∧
  linkAt (linked ⟨0x47, 0, false, false⟩) 11 = some ⟨0x47, 0, false, false⟩ ∧
    (⟨0xC7, 2, true, true⟩ : Link).stat.getLsbD 1 = true ∧ (⟨0xC7, 2, true, true⟩ : Link).ctl.getLsbD 7 = true ∧
    (⟨0x47, 0, false, false⟩ : Link).ctl.getLsbD 7 = false ∧ (3 : BitVec 2) ≠ 0 ∧
    (⟨0xC7, 2, true, true⟩ : Link).ctl.getLsbD ((3 : BitVec 2).toNat - 1) = true := by decide +kernel

theorem witness_power : islandOk 59 = true ∧ timedIsland State.reset 59 = false ∧ 300 % 50 = 0 ∧ 600 % 50 = 0 ∧
    timedIsland (timing ⟨1, 0, 0, 16, false, none, none, 0, 0⟩) 0 = true ∧ State.reset.gtime < 24 * 3600 * 16 * 10 ^ 9 ∧
    24 * 3600 * 16 * 10 ^ 9 ≤ ({ State.reset with sched := { State.reset.sched with g3 := 2 ^ 60 } } : State).gtime := by decide +kernel

/-- A soft error armed in the weights of core 0. -/
def injected : State := { on th with bar := { Bar.reset with errinj := 0xB000800000000000, injected := some 1 } }

theorem witness_scrub : cimInjected (on th) 0 = none ∧ (cimInjected injected 0).isSome = true ∧
    (cimInjected injected 0).all (fun c => c.1 < 4 && c.2 < 512) = true ∧
    injected.domain ((injected.core 0).owner.getD 0) = none := by decide +kernel

/-- A Ringmaster entry before its arming. -/
def unarmed : RmEntry := { due with ctl := 0 }
def arming (e : RmEntry) : State := { launching.modDie 0 (fun d => { d with rm := [(255, e)] }) with bar := (staged 7 0xF).bar }

theorem witness_arming : regsOpen (arming due) = true ∧ (rmGet (arming due) 0 255).ctl.getLsbD 7 = true ∧
    (rmGet (arming unarmed) 0 255).ctl.getLsbD 7 = false ∧ armFields unarmed 0x07 = true ∧ armFields unarmed 0x08 = false ∧
    (match armedRegion (arming unarmed) 0 unarmed.trec (arming unarmed).regions with
      | some (.ok (r, t)) => r.rid = 1 && armRegionOk 0 unarmed r t | _ => false) = true ∧
    (arming unarmed).gtime ≤ unarmed.start.toNat := by decide +kernel

/-- A package with open registers and a tenant table. -/
def tenants (r : List Region) (v : Vector Word 64) : State :=
  { staged 7 0xF with regions := r, bar := { (staged 7 0xF).bar with tenbind := v } }

theorem witness_tenants : regsOpen (tenants [{ loneRegion State.reset with tcount := 64 }] Bar.reset.tenbind) = true ∧
    (∃ r ∈ (tenants [{ loneRegion State.reset with tcount := 64 }] Bar.reset.tenbind).regions, r.tcount ≠ 0) ∧
    (∀ r ∈ (tenants [] Bar.reset.tenbind).regions, r.tcount = 0) ∧
    ((Bar.reset.tenbind.set 63 0x8000000000000000)[(63 : BitVec 6).toNat] : Word).getLsbD 63 = true ∧
    (loneRegion State.reset).tenant = ((Bar.reset.tenbind.set 63 0x8000000000000000)[(63 : BitVec 6).toNat] : Word).extractLsb' 0 16 ∧
    (Bar.reset.tenbind[(63 : BitVec 6).toNat] : Word).getLsbD 63 = false ∧
    (0 : Nat) ≠ (63 : BitVec 6).toNat ∧ (tenants [] (Bar.reset.tenbind.set 0 0x8000000000000000)).bar.tenbind[(0 : Nat)]? =
      some 0x8000000000000000 := by decide +kernel

theorem other_strap (b : BitVec 14) : b + 1 ≠ b := by
  intro h
  have e : (b + 1).toNat = (b.toNat + 1) % 16384 := BitVec.toNat_add b 1
  rw [h] at e
  have := b.isLt
  omega

theorem witness_peer : (0xC000000000000000 : Word).getLsbD 62 = true ∧ (0x8000000000000000 : Word).getLsbD 62 = false ∧
    ((0xC000000000000000 : Word) ||| (Config.straps + 1).setWidth 64).extractLsb' 0 14 ≠ Config.straps := by
  refine ⟨by decide, by decide, ?_⟩
  have z : ∀ i, i < 14 → (0xC000000000000000 : Word).getLsbD i = false := by decide
  have h : ∀ b : BitVec 14, ((0xC000000000000000 : Word) ||| b.setWidth 64).extractLsb' 0 14 = b := by
    intro b; ext i hi
    have := z i hi
    simp_all [BitVec.getElem_extractLsb']
    omega
  rw [h]; exact other_strap _

theorem witness_host : 1 % 4 ≠ 0 ∧ 0x3FBFFFFFF8 + 8 ≤ 0x3FC0000000 ∧ 0x3FBFFFFFFF < 0x3FC0000000 ∧ Good (staged 7 0xF) := by
  unfold Good; decide +kernel

/-- A translation that is asked for, and a page request with what waits for it. -/
def walking : State := (on th).modDie 0 (fun d => { d with walks := [(0, 0x100FFF)] })
def asked : State :=
  (on (living (fun l => { l with faulted := some 3 }))).modDie 0 (fun d => { d with
    reqs := [⟨3, 0, 0x100000, none, true⟩], disp := [{ entry record none none with saved := some th, waiting := some 3 }] })

theorem witness_translations : (∃ w ∈ (walking.die 0).walks, covers page.t w.1 w.2 = true) ∧
    (∀ w ∈ ((on th).die 0).walks, covers page.t w.1 w.2 = false) ∧ (asked.die 0).reqs.find? (fun r => r.sent && r.id = 4) = none ∧
    (∃ r ∈ (asked.die 0).reqs, r.sent = true ∧ r.id = 3) ∧ (∀ n ∈ [0, 1], ∀ h ∈ openHeads (asked.core n), h.asked ≠ some 3) ∧
    asked.bar.fns = [] ∧ asked.toPoison = [] ∧ (∀ r ∈ asked.regions, r.phase ≠ .restoring ∧ r.closing = none) ∧
    (∀ e ∈ (asked.die 0).disp, e.waiting = some 3 → e.saved.isSome = true) ∧
    asked.thread 0 0 = some (living (fun l => { l with faulted := some 3 })) ∧
    (readyEntry (on (thQueue (.atomM .add true (2 ^ 48) 1 0 (some 1) 0))) 0 1).map (fun e => e.2.kind) =
      some (.atomM .add true (2 ^ 48) 1 0 (some 1) 0) ∧ isHost (2 ^ 48) = true := by decide +kernel

/-! ### One step -/

/-- The state whose next step issues an X syllable, before and after its results land, and its bundle. -/
def placed (w : Nat) : State := placeWord State.reset w
def taken (w : Nat) : State := { placed w with sched := { (placed w).sched with todoCores := [] } }
def landed (w : Nat) : State := landTurn (taken w) 0 0
def thPlaced : Thread := newThread 1 1 0 { parseTrec 0 with entry := 0x8000 } none 0 0 0 1 0 0
def nops : List (Nat × Instr × Word) := [(2, .nop .y, 0), (3, .nop .va, 0), (4, .nop .vb, 0), (5, .nop .l, 0), (6, .nop .c, 0), (7, .nop .e, 0)]
def addi5 : Nat := 0x20A00710
def bundle5 : Bundle := ⟨0, false, none, none, (1, .addi .x 5 0 0x71 g0, 0x20A00710) :: nops⟩
def cursor5 (w : Nat) : State := atCursor (landed w) 0 0 0x8020

theorem witness_turn : (placed addi5).sched.todoCores = [0] ∧
  (taken addi5).thread 0 ((placed addi5).coreClock 0 % 8) = some thPlaced ∧
    (taken addi5).frozenFor thPlaced = false ∧ thPlaced.life.resuming = false ∧ (landed addi5).thread 0 0 = some thPlaced ∧
    (landed addi5).bar.errinj.getLsbD 63 = false ∧
    thPlaced.ctl.pc + 32 = 0x8020 ∧ fetchOf (cursor5 addi5) 0 thPlaced = .bytes (bundleOf .x addi5) ∧
    fetchOf (cursor5 1) 0 thPlaced = .bytes (bundleOf .x 1) := by decide +kernel

theorem witness_turn_lands : exec (.resultLands 0 0) (taken addi5) = .next (landed addi5) := rfl

theorem witness_bundle : decodeBundle (bundleOf .x addi5) = .ok bundle5 ∧ decodeBundle (bundleOf .x 1) = .error (1, 1) := ⟨rfl, rfl⟩

theorem witness_ready : Ready (landed addi5) 0 thPlaced :=
  ⟨by decide +kernel, by decide +kernel, by decide +kernel, by decide +kernel, by decide +kernel⟩

theorem witness_one_syllable :
    OneSyllable { cursor5 addi5 with cur := { (cursor5 addi5).cur with lit := none, hwait := 0, strict := false } } 0 0 thPlaced bundle5 1
      (.addi .x 5 0 0x71 g0) 0x20A00710 :=
  ⟨by decide +kernel, by decide +kernel, by decide +kernel, by decide +kernel, by decide +kernel,
    fun u h => by
      rw [show u = _ from (Host.Outcome.next.inj h).symm]
      decide +kernel,
    by decide +kernel⟩

theorem witness_steps : takeDue 0 [(1, Event.kernelBoundary 1), (0, .contextSave 0 0)] = some (.contextSave 0 0, [(1, .kernelBoundary 1)]) ∧
    takeDue 0 [(1, Event.kernelBoundary 1)] = none ∧ eventOf (.contextSave 0 0) = some (.contextSave 0 0) := by decide +kernel

theorem witness_codes : (Instr.addi .y 31 31 0xFFF ⟨7, true⟩).wellFormed = true ∧ posOf (.addi .y 31 31 0xFFF ⟨7, true⟩) = some .y ∧
    decode .x 0x20A00710 = .ok (.addi .x 5 0 0x71 g0) := ⟨by decide, by decide, rfl⟩

theorem witness_good_step : Good State.reset ∧ ∃ u, step State.reset = .next u := ⟨by unfold Good; decide +kernel, _, rfl⟩

/-- What the last result in flight of core 0's slot 0 is, for whom, and after how many turns. -/
def given (r : Result) : Option (Dest × Nat × Nat) :=
  match r with
  | .next u => u.cth.bind (fun t => t.pipe.flights.getLast?.map (fun f => (f.dest, f.val.toNat, f.rem)))
  | _ => none

/-! ### Results that the spec's examples and tables state -/

/-- Numbers in x1 to x8. -/
def thNums : Thread :=
  xs [(1, -7), (2, 2), (3, 0x8000000000000000), (4, 0xFFFFFFFFFFFFFFFF), (5, 0x3F800001), (6, 0xBF800002), (7, 0x44556677), (8, 0x8020)] th

-- R123: division rounds toward zero; the corners; the high half of a product.
theorem test_division : given (exec (.div .x 9 1 2 g0) (on thNums)) = some (.x 9, 2 ^ 64 - 3, 20) ∧
    given (exec (.rem .x 9 1 2 g0) (on thNums)) = some (.x 9, 2 ^ 64 - 1, 20) ∧
    given (exec (.div .x 9 3 4 g0) (on thNums)) = some (.x 9, 2 ^ 63, 20) ∧
    given (exec (.remu .x 9 2 0 g0) (on thNums)) = some (.x 9, 2, 20) ∧
    given (exec (.mulh .x 9 3 3 g0) (on thNums)) = some (.x 9, 2 ^ 62, 2) := by decide +kernel

-- R326, R378, R393: a signed and an unsigned order, an arithmetic shift, leading zeros of 2.
theorem test_scalar : given (exec (.min .x 9 1 2 g0) (on thNums)) = some (.x 9, 2 ^ 64 - 7, 1) ∧
    given (exec (.minu .x 9 1 2 g0) (on thNums)) = some (.x 9, 2, 1) ∧
    given (exec (.sra .x 9 1 2 g0) (on thNums)) = some (.x 9, 2 ^ 64 - 2, 1) ∧
    given (exec (.clz .x 9 2 g0) (on thNums)) = some (.x 9, 62, 1) ∧
    given (exec (.sextb .x 9 7 g0) (on thNums)) = some (.x 9, 0x77, 1) := by decide +kernel

-- R353's example: 2 to the power -46, one rounding of the product and sum.
theorem test_ffma : (given (exec (.ffma .x 6 5 5 g0) (on thNums))).map (fun e => e.2.1) = some 0x28800000 := by decide +kernel

/-- Vectors in v1 to v4. -/
def thVecs (l : List Vec) : Thread :=
  { th with regs := { th.regs with v := (l.zipIdx).foldl (fun v e => v.setIfInBounds (e.2 + 1) e.1) th.regs.v } }

-- R134's table: 464.0, 470.0, 0.001 and minus infinity to E4M3.
theorem test_vcvt :
    (given (exec (.vcvt .f32 .e4m3 false 2 1 g0) (on (thVecs [0xFF8000003A83126F43EB000043E80000])))).map (fun e => e.2.1) = some 0x7F017F7E ∧
    (given (exec (.vcvt .f32 .e4m3 true 2 1 g0) (on (thVecs [0xFF8000003A83126F43EB000043E80000])))).map (fun e => e.2.1) = some 0xFE017E7E := by
  decide +kernel

-- R144's example: 2 to the power 24, 1, its negative and 1 sum to 1.0.
theorem test_vred : (given (exec (.vred .sum .f32 2 1 g0) (on (thVecs [0x3F800000CB8000003F8000004B800000])))).map (fun e => e.2.1) =
    some 0x3F800000 := by decide +kernel

-- R135's example: 1,000 and -1,000 by 4.
theorem test_vrshr : (given (exec (.vrshr .i32 3 1 2 g0) (on (thVecs [0xFFFFFC18000003E8, 0x0000000400000004])))).map (fun e => e.2.1) =
    some (63 + 2 ^ 32 * (2 ^ 32 - 62)) := by decide +kernel

-- R363's byte order: STW stores the low byte first.
theorem test_stw : (match exec (.stw .x 7 8 0 0 g0) (on thNums) with
    | .next u => Memory.readBytes u.mem 0x8020 4 = [0x77, 0x66, 0x55, 0x44] | _ => false) = true := by decide +kernel

-- R334: a branch of -1 bundles from 0x8000; R383: RET to a misaligned address traps ALIGN.
theorem test_branch : (match exec (.br (-1) g0) (on th) with | .next u => u.cur.next = 0x7FE0 | _ => false) = true ∧
    (match exec (.ret 5 g0) (on thNums) with | .next u => u.cur.issue = .trapped | _ => false) = true := by decide +kernel

end Sys2Proof.Tests
end

section
/-! The two-source integer syllables of slots X and Y, and the words of the encoding tables. -/

namespace Sys2Proof.Machine

open Safety

/-! ### The halves of a 64 x 64 bit product (R370) -/

/-- The upper half of a signed product is itself a signed word. -/
theorem toInt_ofInt_mul_ediv (x y : Word) :
    (BitVec.ofInt 64 (x.toInt * y.toInt / 2 ^ 64)).toInt = x.toInt * y.toInt / 2 ^ 64 := by
  have hle : x.toInt * y.toInt ≤ 2 ^ 126 := BitVec.toInt_mul_toInt_le
  have hge : -2 ^ 126 ≤ x.toInt * y.toInt := BitVec.le_toInt_mul_toInt
  exact BitVec.toInt_ofInt_eq_self (by decide) (by omega) (by omega)

/-- A signed product is its signed upper half and an unsigned lower half. -/
theorem signed_mul_eq_high_add_low (x y : Word) : ∃ lo : Nat, lo < 2 ^ 64 ∧
    x.toInt * y.toInt = (BitVec.ofInt 64 (x.toInt * y.toInt / 2 ^ 64)).toInt * 2 ^ 64 + lo := by
  rw [toInt_ofInt_mul_ediv]
  exact ⟨(x.toInt * y.toInt % 2 ^ 64).toNat, by omega, by omega⟩

/-- An unsigned product is its upper half and its lower half. -/
theorem unsigned_mul_eq_high_add_low (x y : Word) : ∃ lo : Nat, lo < 2 ^ 64 ∧
    x.toNat * y.toNat = (BitVec.ofNat 64 (x.toNat * y.toNat / 2 ^ 64)).toNat * 2 ^ 64 + lo := by
  have hlt : x.toNat * y.toNat < 2 ^ 64 * 2 ^ 64 := Nat.mul_lt_mul'' x.isLt y.isLt
  rw [BitVec.toNat_ofNat, Nat.mod_eq_of_lt (Nat.div_lt_of_lt_mul hlt)]
  exact ⟨x.toNat * y.toNat % 2 ^ 64, Nat.mod_lt _ (by decide), (Nat.div_add_mod' _ _).symm⟩

/-! ### The greater of two words (R366) -/

/-- Of two tests that cover all cases and hold together only of equal words, either one picks the same word. -/
theorem ite_eq_ite_swap {p q : Prop} [Decidable p] [Decidable q] {x y : Word} (total : p ∨ q) (anti : p → q → x = y) :
    (if p then x else y) = if q then y else x := by
  by_cases hp : p
  · by_cases hq : q
    · rw [if_pos hp, if_pos hq, anti hp hq]
    · rw [if_pos hp, if_neg hq]
  · rw [if_neg hp, if_pos (total.resolve_left hp)]

/-- Tested by sign, from either side, the greater word is the same. -/
theorem ite_toInt_ge_eq_ite_le (x y : Word) :
    (if x.toInt ≥ y.toInt then x else y) = if x.toInt ≤ y.toInt then y else x :=
  ite_eq_ite_swap (Int.le_total _ _) fun hge hle => BitVec.eq_of_toInt_eq (Int.le_antisymm hle hge)

/-- Tested without sign, from either side, the greater word is the same. -/
theorem ite_toNat_ge_eq_ite_le (x y : Word) :
    (if x.toNat ≥ y.toNat then x else y) = if x.toNat ≤ y.toNat then y else x :=
  ite_eq_ite_swap (Nat.le_total _ _) fun hge hle => BitVec.eq_of_toNat_eq (Nat.le_antisymm hle hge)

/-! ### Two-source integer syllables -/

/-- A syllable whose meaning is a two-source integer operation gives that operation's result on its sources, with no flag. -/
theorem gives_of_exec_eq_intOp2 {s : State} {t : Thread} {g : Guard} {cl : Cl} {d a b : Reg} {lat : Nat} {i : Instr}
    (h : Issues s t g) (f : Word → Word → Word) (hi : exec i s = .next (intOp2 s cl d a b lat g f)) :
    Gives i s (Cl.reg cl d) (f (t.regs.getS cl a) (t.regs.getS cl b)) lat 0 := by
  rw [Gives, hi, intOp2_issues h]

section
variable {s : State} {t : Thread} {g : Guard} (h : Issues s t g) (cl : Cl) (d a b : Reg)
include h

/-- MULH gives the signed upper half of the product (R370). -/
theorem mulh_gives_high : ∃ v : Word, Gives (.mulh cl d a b g) s (Cl.reg cl d) v 2 0 ∧
    ∃ lo : Nat, lo < 2 ^ 64 ∧ (t.regs.getS cl a).toInt * (t.regs.getS cl b).toInt = v.toInt * 2 ^ 64 + lo :=
  ⟨_, gives_of_exec_eq_intOp2 h (fun x y => BitVec.ofInt 64 (x.toInt * y.toInt / 2 ^ 64)) rfl, signed_mul_eq_high_add_low _ _⟩

/-- MULHU gives the unsigned upper half of the product (R370). -/
theorem mulhu_gives_high : ∃ v : Word, Gives (.mulhu cl d a b g) s (Cl.reg cl d) v 2 0 ∧
    ∃ lo : Nat, lo < 2 ^ 64 ∧ (t.regs.getS cl a).toNat * (t.regs.getS cl b).toNat = v.toNat * 2 ^ 64 + lo :=
  ⟨_, gives_of_exec_eq_intOp2 h (fun x y => BitVec.ofNat 64 (x.toNat * y.toNat / 2 ^ 64)) rfl, unsigned_mul_eq_high_add_low _ _⟩

/-- MAX gives the greater source by sign (R366). -/
theorem max_gives_greater : Gives (.max cl d a b g) s (Cl.reg cl d)
    (if (t.regs.getS cl a).toInt ≤ (t.regs.getS cl b).toInt then t.regs.getS cl b else t.regs.getS cl a) 1 0 := by
  rw [← ite_toInt_ge_eq_ite_le]
  exact gives_of_exec_eq_intOp2 h (fun x y => if x.toInt ≥ y.toInt then x else y) rfl

/-- MAXU gives the greater source without sign (R366). -/
theorem maxu_gives_greater : Gives (.maxu cl d a b g) s (Cl.reg cl d)
    (if (t.regs.getS cl a).toNat ≤ (t.regs.getS cl b).toNat then t.regs.getS cl b else t.regs.getS cl a) 1 0 := by
  rw [← ite_toNat_ge_eq_ite_le]
  exact gives_of_exec_eq_intOp2 h (fun x y => if x.toNat ≥ y.toNat then x else y) rfl

end

/-- Settles O1: the five words are evaluated, and each syllable is a two-source operation on its sources. -/
theorem integerTwoSourceResults : Obligations.IntegerTwoSourceResults := by
  unfold Obligations.IntegerTwoSourceResults
  refine ⟨rfl, rfl, rfl, rfl, rfl, fun s t cl d a b g h => ?_⟩
  exact
    ⟨gives_of_exec_eq_intOp2 h (· + ·) rfl,
      gives_of_exec_eq_intOp2 h (· - ·) rfl,
      gives_of_exec_eq_intOp2 h (· &&& ·) rfl,
      gives_of_exec_eq_intOp2 h (fun x y => x &&& ~~~y) rfl,
      gives_of_exec_eq_intOp2 h (· ||| ·) rfl,
      gives_of_exec_eq_intOp2 h (· ^^^ ·) rfl,
      gives_of_exec_eq_intOp2 h (fun x y => x <<< amount y) rfl,
      gives_of_exec_eq_intOp2 h (fun x y => x >>> amount y) rfl,
      gives_of_exec_eq_intOp2 h (fun x y => x.sshiftRight (amount y)) rfl,
      gives_of_exec_eq_intOp2 h (· * ·) rfl,
      mulh_gives_high h cl d a b,
      mulhu_gives_high h cl d a b,
      gives_of_exec_eq_intOp2 h (fun x y => if x.toInt ≤ y.toInt then x else y) rfl,
      max_gives_greater h cl d a b,
      gives_of_exec_eq_intOp2 h (fun x y => if x.toNat ≤ y.toNat then x else y) rfl,
      maxu_gives_greater h cl d a b⟩

/-- Settles O58: the decoder is evaluated on each written word. -/
theorem writtenWordsDecode : Obligations.WrittenWordsDecode := by
  unfold Obligations.WrittenWordsDecode
  exact ⟨rfl, rfl, rfl, rfl, rfl, rfl, rfl, rfl, rfl, rfl, rfl, rfl, rfl, rfl, rfl, rfl⟩

end Sys2Proof.Machine
end
